-- ==== Sys2Proof/Word.lean ====
section
/-! DEFINITION. The two word types of the core: the byte and the 16-bit address (spec 00_scope.md R6, R8).
Their bit-field and byte-order helpers are in Machine/Bytes.lean. -/

namespace Sys2Proof

/-- A `u8`: registers A, X, Y, S, P and every memory byte (R6). -/
abbrev Byte := BitVec 8

/-- A `u16`: PC and every address (R6). -/
abbrev Addr := BitVec 16

end Sys2Proof
end

