-- ==== Sys2Proof/Machine/Flags.lean ====
section
/-! DEFINITION. The bits of P (spec 10_state.md R33), the flag updater (R39) and the flag computations of 41 and 42. -/

namespace Sys2Proof.Machine

/-- The eight bits of P (R33); `u` is the one CSP calls unused. -/
inductive Flag where
  | n | v | u | b | d | i | z | c
deriving DecidableEq, Repr

/-- The bit number of a flag in P (R33). -/
def Flag.bit : Flag → Nat
  | .n => 7
  | .v => 6
  | .u => 5
  | .b => 4
  | .d => 3
  | .i => 2
  | .z => 1
  | .c => 0

/-- The mask of a flag in P (R33). -/
def Flag.mask (f : Flag) : Byte := 1#8 <<< f.bit

/-- A flag of a P byte. -/
def getFlag (p : Byte) (f : Flag) : Bool := p.getLsbD f.bit

/-- A P byte with one flag written and the other seven bits kept. -/
def putFlag (p : Byte) (f : Flag) (val : Bool) : Byte :=
  if val then p ||| f.mask else p &&& ~~~f.mask

/-- `setZN(v)` (R39). -/
def setZN (p v : Byte) : Byte := putFlag (putFlag p .z (v == 0)) .n (v.getLsbD 7)

/-- `checkForOverflow(old, new)`: bit 7 differs (41_logical_arith_compare.md R140). -/
def checkForOverflow (old new : Byte) : Bool := old.getLsbD 7 != new.getLsbD 7

/-- `A + M + P.C` as an integer (R146). -/
def adcSum (a m : Byte) (carry : Bool) : Nat := a.toNat + m.toNat + carry.toNat

/-- `A - M` as an integer, the carry ignored (R147). -/
def subDiff (a m : Byte) : Int := (a.toNat : Int) - (m.toNat : Int)

/-- P after a register `old` became `r` with carry or borrow `carry`: C, V by the bit-7 rule, Z and N (R146, R147). -/
def arithFlags (p old r : Byte) (carry : Bool) : Byte :=
  setZN (putFlag (putFlag p .c carry) .v (checkForOverflow old r)) r

/-- P after the register `reg` is compared with `m`: C on borrow, Z and N from the register (R148 to R150). -/
def compareFlags (p reg m : Byte) : Byte :=
  setZN (putFlag p .c (decide (subDiff reg m < 0))) reg

/-- P after BIT: N and V from memory, Z from `A & M` (44_branch_control.md R254). -/
def bitFlags (p a m : Byte) : Byte :=
  putFlag (putFlag (putFlag p .n (m.getLsbD 7)) .v (m.getLsbD 6)) .z (a &&& m == 0)

/-- P after a left shift gave `r` and shifted out `out` (42_incdec_shift.md R177, R179). -/
def leftShiftFlags (p r : Byte) (out : Bool) : Byte := setZN (putFlag p .c out) r

/-- P after a right shift gave `r` and shifted out `out`: N is forced to 0 (42_incdec_shift.md R178, R180). -/
def rightShiftFlags (p r : Byte) (out : Bool) : Byte :=
  putFlag (putFlag (putFlag p .c out) .z (r == 0)) .n false

end Sys2Proof.Machine
end

