-- ==== Sys2Proof/Config.lean ====
section
/-! DEFINITION. What is fixed for one machine: the constants of spec 00_scope.md R6 and the open parameters of R7 (MEM0 apart,
which is the memory at reset). The parameters are plain data that State carries and no step changes, so a statement over every
state holds for every value of them. No instruction of this core has an undefined result, so there is no free value here. -/

namespace Sys2Proof

/-- `STACK_OFFSET`, the base of the stack page (R6; decision D27). -/
def stackOffset : Addr := 0x0100

/-- The reset vector (R6; 20_memory.md R70). -/
def resetVector : Addr := 0xFFFC

/-- The IRQ vector, which BRK uses (R6; 20_memory.md R70). -/
def irqVector : Addr := 0xFFFE

/-- `ILLEGAL_POLICY` (R7; 60_exceptions.md R302, R303). -/
inductive IllegalPolicy where
  | permissive
  | strict
deriving DecidableEq, Repr

/-- `GATE_MODE`, the CycleGate variant (R7; 60_exceptions.md R320). -/
inductive GateMode where
  | alwaysOpen
  | handshake
deriving DecidableEq, Repr

/-- The open parameters of R7. -/
structure Config where
  /-- `ILLEGAL_POLICY` (decision D5). -/
  illegalPolicy : IllegalPolicy
  /-- `GATE_MODE` (decision D36). -/
  gateMode : GateMode
  /-- `MAX_INSTRUCTIONS`, `none` for an unbounded run (decision D22). -/
  maxInstructions : Option Nat
  /-- `RESET_A` (decision D7). -/
  resetA : Byte
  /-- `RESET_X` (decision D7). -/
  resetX : Byte
  /-- `RESET_Y` (decision D7). -/
  resetY : Byte
  /-- `RESET_P` (decision D7). -/
  resetP : Byte
deriving DecidableEq, Repr

/-- The values `State.reset` takes for the parameters. DESIGN CHOICE, unsafe: the spec leaves each open (log entries 3
and 4); the machine under any other value is `State.resetWith`. -/
def Config.standard : Config where
  illegalPolicy := .permissive
  gateMode := .alwaysOpen
  maxInstructions := none
  resetA := 0
  resetX := 0
  resetY := 0
  resetP := 0

end Sys2Proof
end

