-- ==== Sys2Proof/Machine/Bytes.lean ====
section
/-! DEFINITION. Byte order, byte halves and the two extensions of spec 00_scope.md R8. -/

namespace Sys2Proof

/-- `hi : lo`, the u16 `(hi << 8) | lo` (R8). -/
def word (hi lo : Byte) : Addr := hi ++ lo

/-- `w >> 8`, the high byte of a u16 (10_state.md R25, R27). -/
def hiByte (w : Addr) : Byte := w.extractLsb' 8 8

/-- `w & 0xFF`, the low byte of a u16 (10_state.md R25, R27). -/
def loByte (w : Addr) : Byte := w.extractLsb' 0 8

/-- `zext_16(b)` (R8). -/
def zext16 (b : Byte) : Addr := b.setWidth 16

/-- `sext_16(b)`: the two's-complement value of `b`, modulo 65536 (R8). -/
def sext16 (b : Byte) : Addr := b.signExtend 16

end Sys2Proof
end

