-- ==== Sys2Proof/Machine/Memory.lean ====
section
/-! DEFINITION. The flat 64 KiB memory of spec 20_memory.md R60 as plain data: a list of (address, byte) cells, the addresses
strictly rising, none equal to what an unlisted address reads as. -/

namespace Sys2Proof.Machine

/-- A memory's cells. -/
abbrev Memory := List Host.Cell

/-- What an address without a cell reads as. DESIGN CHOICE, unsafe at reset only: the spec leaves every byte of MEM0 open
(decision D37; log entry 2); a memory with other contents lists them. -/
def unlistedByte : Byte := 0

/-- The byte at an address (R61). -/
def Memory.read : Memory → Nat → Byte
  | [], _ => unlistedByte
  | (k, v) :: m, a => if k = a then v else Memory.read m a

/-- The memory without the cells at `a`. -/
def Memory.erase : Memory → Nat → Memory
  | [], _ => []
  | (k, v) :: m, a => if k = a then Memory.erase m a else (k, v) :: Memory.erase m a

/-- A cell put before the first higher address. -/
def Memory.insert : Memory → Nat → Byte → Memory
  | [], a, v => [(a, v)]
  | (k, w) :: m, a, v => if a < k then (a, v) :: (k, w) :: m else (k, w) :: Memory.insert m a v

/-- The memory after the byte `v` is stored at `a` (R61). -/
def Memory.write (m : Memory) (a : Nat) (v : Byte) : Memory :=
  if v = unlistedByte then m.erase a else (m.erase a).insert a v

/-- The canonical form: addresses inside the 65536 bytes, strictly rising, no cell equal to the unlisted byte. -/
def Memory.wf : Memory → Bool
  | [] => true
  | (k, v) :: m => decide (k < 65536) && decide (v ≠ unlistedByte) && m.all (fun c => decide (k < c.1)) && Memory.wf m

/-- The little-endian word at `a`, its high byte at `a + 1` modulo 65536 (R63), as bytes of the memory. -/
def Memory.wordAt (m : Memory) (a : Addr) : Addr := word (m.read (a + 1).toNat) (m.read a.toNat)

/-- The pointer at zero-page byte `z`, its high byte at `z + 1` modulo 256 (R64), as bytes of the memory. -/
def Memory.wordAtZP (m : Memory) (z : Byte) : Addr := word (m.read (zext16 (z + 1)).toNat) (m.read (zext16 z).toNat)

end Sys2Proof.Machine
end

