-- ==== Sys2Proof/Syntax.lean ====
section
/-! DEFINITION. The instructions as syntax. A mnemonic is a constructor and its addressing mode with the operand bytes is its
argument, because spec 30_encoding.md R117 gives one handler per mnemonic for all its modes; a row of the opcode table is a
constructor together with a mode (log entry 1). Which pairs the table has is WellFormed.lean. -/

namespace Sys2Proof

/-- The modes that name a memory byte by operand bytes (30_encoding.md R103 to R108, R110, R111). -/
inductive MemOperand where
  /-- `zp`: zeropage (R103). -/
  | zp (b : Byte)
  /-- `zpx`: zeropage,X (R104). -/
  | zpx (b : Byte)
  /-- `zpy`: zeropage,Y (R105). -/
  | zpy (b : Byte)
  /-- `abs`: absolute (R106). -/
  | abs (w : Addr)
  /-- `absx`: absolute,X (R107). -/
  | absx (w : Addr)
  /-- `absy`: absolute,Y (R108). -/
  | absy (w : Addr)
  /-- `izx`: indexed indirect, (zp,X) (R110). -/
  | izx (b : Byte)
  /-- `izy`: indirect indexed, (zp),Y (R111). -/
  | izy (b : Byte)
deriving DecidableEq, Repr

/-- The operand of a reading instruction: the immediate byte (R102) or a memory byte. -/
inductive ReadOperand where
  | imm (b : Byte)
  | mem (m : MemOperand)
deriving DecidableEq, Repr

/-- The operand of a shift: the accumulator (R101) or a memory byte. -/
inductive ShiftOperand where
  | acc
  | mem (m : MemOperand)
deriving DecidableEq, Repr

/-- The operand of JMP: absolute (R106) or indirect (R109). -/
inductive JumpOperand where
  | abs (w : Addr)
  | ind (w : Addr)
deriving DecidableEq, Repr

/-- Every instruction of the opcode table. -/
inductive Instr where
  /-- ORA (R143): bitwise OR of memory into A. -/
  | ora (o : ReadOperand)
  /-- AND (R144): bitwise AND of memory into A. -/
  | and (o : ReadOperand)
  /-- EOR (R145): bitwise exclusive OR of memory into A. -/
  | eor (o : ReadOperand)
  /-- ADC (R146): add memory and carry to A. -/
  | adc (o : ReadOperand)
  /-- SBC (R147): subtract memory from A, no borrow-in. -/
  | sbc (o : ReadOperand)
  /-- CMP (R148): compare A with memory. -/
  | cmp (o : ReadOperand)
  /-- CPX (R149): compare X with memory. -/
  | cpx (o : ReadOperand)
  /-- CPY (R150): compare Y with memory. -/
  | cpy (o : ReadOperand)
  /-- INC (R171): increment memory. -/
  | inc (m : MemOperand)
  /-- DEC (R172): decrement memory. -/
  | dec (m : MemOperand)
  /-- INX (R173): increment X. -/
  | inx
  /-- DEX (R174): decrement X. -/
  | dex
  /-- INY (R175): increment Y. -/
  | iny
  /-- DEY (R176): decrement Y. -/
  | dey
  /-- ASL (R177): shift left. -/
  | asl (o : ShiftOperand)
  /-- LSR (R178): logical shift right. -/
  | lsr (o : ShiftOperand)
  /-- ROL (R179): rotate left through carry. -/
  | rol (o : ShiftOperand)
  /-- ROR (R180): rotate right through carry. -/
  | ror (o : ShiftOperand)
  /-- LDA (R200): load A. -/
  | lda (o : ReadOperand)
  /-- LDX (R201): load X. -/
  | ldx (o : ReadOperand)
  /-- LDY (R202): load Y. -/
  | ldy (o : ReadOperand)
  /-- STA (R203): store A. -/
  | sta (m : MemOperand)
  /-- STX (R204): store X. -/
  | stx (m : MemOperand)
  /-- STY (R205): store Y. -/
  | sty (m : MemOperand)
  /-- TAX (R206): copy A to X. -/
  | tax
  /-- TXA (R207): copy X to A. -/
  | txa
  /-- TAY (R208): copy A to Y. -/
  | tay
  /-- TYA (R209): copy Y to A. -/
  | tya
  /-- TSX (R210): copy S to X. -/
  | tsx
  /-- TXS (R211): copy X to S. -/
  | txs
  /-- PHA (R212): push A. -/
  | pha
  /-- PLA (R213): pull A. -/
  | pla
  /-- PHP (R214): push P. -/
  | php
  /-- PLP (R215): pull P. -/
  | plp
  /-- BPL (R241): branch on N clear; `b` is the offset byte. -/
  | bpl (b : Byte)
  /-- BMI (R242): branch on N set; `b` is the offset byte. -/
  | bmi (b : Byte)
  /-- BVC (R243): branch on V clear; `b` is the offset byte. -/
  | bvc (b : Byte)
  /-- BVS (R244): branch on V set; `b` is the offset byte. -/
  | bvs (b : Byte)
  /-- BCC (R245): branch on C clear; `b` is the offset byte. -/
  | bcc (b : Byte)
  /-- BCS (R246): branch on C set; `b` is the offset byte. -/
  | bcs (b : Byte)
  /-- BNE (R247): branch on Z clear; `b` is the offset byte. -/
  | bne (b : Byte)
  /-- BEQ (R248): branch on Z set; `b` is the offset byte. -/
  | beq (b : Byte)
  /-- BRK (R249): software break. -/
  | brk
  /-- RTI (R250): return from interrupt. -/
  | rti
  /-- JSR (R251): jump to subroutine at the operand word. -/
  | jsr (w : Addr)
  /-- RTS (R252): return from subroutine. -/
  | rts
  /-- JMP (R253): jump. -/
  | jmp (t : JumpOperand)
  /-- BIT (R254): test bits of memory against A. -/
  | bit (m : MemOperand)
  /-- CLC (R256): clear C. -/
  | clc
  /-- SEC (R257): set C. -/
  | sec
  /-- CLD (R258): clear D. -/
  | cld
  /-- SED (R259): set D. -/
  | sed
  /-- CLI (R260): clear I. -/
  | cli
  /-- SEI (R261): set I. -/
  | sei
  /-- CLV (R262): clear V. -/
  | clv
  /-- NOP (R263): no operation. -/
  | nop
  /-- The ILLEGAL rows (30_encoding.md R115): an opcode byte outside the map, `op`. -/
  | illegal (op : Byte)
deriving DecidableEq, Repr

end Sys2Proof
end

