-- ==== Sys2Proof/Machine/State.lean ====
section
/-! DEFINITION. The state of the machine: everything spec 10_state.md R20, R33 and R40 give it, the parameters of 00_scope.md
R7, the CPU's place in an instruction and the clock driver's; the reasons a step stops; the state after reset (R44, R350). -/

namespace Sys2Proof.Machine

/-- What the engine reports to the host (60_exceptions.md R344). -/
inductive Report where
  /-- A byte outside the opcode map was fetched (R301). -/
  | illegalOpcode (op : Byte) (opAddr : Addr)
  /-- A documented opcode had no handler (R304); a core that meets the spec never reports it. -/
  | notImplemented (op : Byte) (opAddr : Addr)
  /-- An instruction completed after `n` gated cycles (R327). -/
  | instructionComplete (opAddr : Addr) (op : Byte) (n : Nat)
deriving DecidableEq, Repr

/-- The CPU's place in an instruction whose next gated cycle waits inside `enter_cycle`, the only point where the execution thread
is suspended (60_exceptions.md R322). The model's own record (log entry 19) of what the execution thread holds there. -/
structure InFlight where
  /-- The instruction. -/
  instr : Instr
  /-- `op_addr`. -/
  opAddr : Addr
  /-- `op`, its opcode byte. -/
  op : Byte
  /-- P as the instruction found it. With the byte at `ea`, which no agent changes between the two phases of a read-modify-write,
  it gives the `R` that the read phase computed (42_incdec_shift.md R170). -/
  p : Byte
  /-- How many of the instruction's gated cycles have passed. -/
  passed : Nat
deriving DecidableEq, Repr

/-- The machine. -/
structure State where
  /-- PC (R25). -/
  pc : Addr
  /-- S, the offset of the next free byte in the stack page (R31). -/
  sp : Byte
  /-- P, the status register, all eight bits stored (R33). -/
  p : Byte
  /-- A (R21). -/
  a : Byte
  /-- X (R22). -/
  x : Byte
  /-- Y (R23). -/
  y : Byte
  /-- The memory buffer (20_memory.md R60). -/
  mem : Memory
  /-- `stop_requested` (R40; 60_exceptions.md R342). -/
  stopRequested : Bool
  /-- `running` (R40): the execution loop is active. -/
  running : Bool
  /-- `cycle_count` (R40; 60_exceptions.md R313, R321). -/
  cycleCount : Nat
  /-- `go`, the driver's signal to the CPU (R40; 60_exceptions.md R324). -/
  go : Bool
  /-- `done`, the CPU's signal to the driver (R40; 60_exceptions.md R324). -/
  done : Bool
  /-- `executed` (R40): instructions completed in this run. -/
  executed : Nat
  /-- The report log, oldest first (R40; 60_exceptions.md R344). -/
  reports : List Report
  /-- The open parameters (00_scope.md R7); no step changes them. -/
  cfg : Config
  /-- `some` exactly while the CPU stands inside `enter_cycle` (60_exceptions.md R322, R331, R334); the registers and the
  memory are then as the passed gated cycles left them. -/
  inFlight : Option InFlight
  /-- The `start_cycle` calls the clock driver makes by itself as soon as the CPU waits for one, `none` for a driver that never
  stops. The model's own field, for the driver's free schedule (93_implementation_defined.md K9; 60_exceptions.md R331). DESIGN
  CHOICE (log entry 5). -/
  driverCalls : Option Nat
  /-- The clock driver stands inside `start_cycle`: it has set `go` and waits for `done` (60_exceptions.md R325). -/
  driverWaiting : Bool
deriving DecidableEq, Repr

/-- Why a step stops. -/
inductive Fault where
  /-- Raised by `step` when the execution loop is not active: no agent but the host has a move then (60_exceptions.md R341,
  R346). Safe: the model stops where the engine does nothing. -/
  | notRunning
  /-- Raised by every instruction in Handshake mode when the CPU stands inside `enter_cycle` and no `start_cycle` releases it: a
  stuck agent with no enabled step (60_exceptions.md R331). The state it stands in is the state before the step, and the next
  `start_cycle` takes it on from there (R334). Safe: the spec gives it no step until then. -/
  | gateStall
deriving DecidableEq, Repr

/-- Why there is no meaning. -/
inductive Refusal where
  /-- The instruction has no meaning yet; raised by an arm of `exec`, by name. Safe. No arm raises it now. -/
  | notModelled (mnemonic : String)
  /-- Raised by `State.hostDo` for a host write, a reset or a start while the engine runs: no move (60_exceptions.md R341, R345;
  93_implementation_defined.md K8). Unsafe in one case: a host that breaks its duty (log entry 14). -/
  | hostWhileRunning
  /-- Raised by `State.hostDo` for a `start_cycle` of a clock driver that still waits inside one: the one driver thread makes no
  second call there (60_exceptions.md R325, R332). Safe. -/
  | driverInCall
deriving DecidableEq, Repr

/-- The reset sequence (70_reset_and_hazards.md R350), which the host performs while the engine is stopped; the spec has it
once, before the first `start()`, and the model at any time (log entry 21). Memory, the parameters and the clock driver are
not touched, and the two vector reads are not gated. -/
def State.hostReset (s : State) : State :=
  { s with
    sp := 0xFF
    pc := s.mem.wordAt resetVector
    a := s.cfg.resetA
    x := s.cfg.resetX
    y := s.cfg.resetY
    p := s.cfg.resetP
    cycleCount := 0
    go := false
    done := false
    stopRequested := false
    executed := 0
    reports := [] }

/-- `new(memory, gate)` (60_exceptions.md R340): the engine before its reset. Of the values here the spec gives `running`, and
`go` and `done` (R324). DESIGN CHOICE (log entry 18): until the reset writes them, the six registers are 0, `stop_requested`
is false, `cycle_count` and `executed` are 0 and the report log is empty. -/
def State.new (cfg : Config) (mem : Memory) : State where
  pc := 0
  sp := 0
  p := 0
  a := 0
  x := 0
  y := 0
  mem := mem
  stopRequested := false
  running := false
  cycleCount := 0
  go := false
  done := false
  executed := 0
  reports := []
  cfg := cfg
  inFlight := none
  driverCalls := none
  driverWaiting := false

/-- The machine right after reset, for any parameters and any MEM0 (10_state.md R44). -/
def State.resetWith (cfg : Config) (mem : Memory) : State := (State.new cfg mem).hostReset

/-- The machine right after reset. DESIGN CHOICE, unsafe: the open parameters and MEM0 take the values of log entries 2 to 5. -/
def State.reset : State := State.resetWith Config.standard []

end Sys2Proof.Machine
end

