-- ==== Sys2Proof/Machine/Gate.lean ====
section
/-! DEFINITION. The CycleGate (spec 60_exceptions.md R320 to R331), the clock driver's half of it, and an instruction behind
it. -/

namespace Sys2Proof.Machine

/-- `reset_cycle_count()` (R321). -/
def State.resetCycleCount (s : State) : State := { s with cycleCount := 0 }

/-- `start_cycle()` up to its wait (R325): `set(go)`, and the driver waits. AlwaysOpen: nothing (R323). -/
def State.startCycle (s : State) : State :=
  match s.cfg.gateMode with
  | .alwaysOpen => s
  | .handshake => { s with go := true, driverWaiting := true }

/-- The driver's own next call of `start_cycle()`, made where the CPU waits for it. A driver that already waits, or has no call
left to make, does not move. -/
def State.driverBegin (s : State) : State :=
  match s.cfg.gateMode with
  | .alwaysOpen => s
  | .handshake =>
    if s.driverWaiting || s.driverCalls == some 0 then s
    else { s.startCycle with driverCalls := s.driverCalls.map (· - 1) }

/-- The rest of the driver's `start_cycle()`: `wait(done)` (R324, R325), which consumes the signal once it is set. When a
waiting driver wakes belongs to its free schedule (93_implementation_defined.md K9); DESIGN CHOICE (log entry 20): it wakes
where `gatedCycle` puts this. -/
def State.driverEnd (s : State) : State :=
  match s.cfg.gateMode with
  | .alwaysOpen => s
  | .handshake => if s.driverWaiting && s.done then { s with done := false, driverWaiting := false } else s

/-- `enter_cycle()` up to its wait: the count (R321). A CPU that stands in `enter_cycle` has counted already. -/
def State.enterBegin (s : State) : State :=
  match s.inFlight with
  | none => { s with cycleCount := s.cycleCount + 1 }
  | some _ => s

/-- The rest of `enter_cycle()`: in Handshake mode `wait(go)` (R323, R325); `none` where the CPU stays blocked. -/
def State.enterEnd (s : State) : Option State :=
  match s.cfg.gateMode with
  | .alwaysOpen => some { s with inFlight := none }
  | .handshake => if s.go then some { s with go := false, inFlight := none } else none

/-- `exit_cycle()`: in Handshake mode `set(done)` (R323, R325). -/
def State.exitCycle (s : State) : State :=
  match s.cfg.gateMode with
  | .alwaysOpen => s
  | .handshake => { s with done := true }

/-- One gated cycle with the driver's part in it (R322, R329): the CPU enters, the driver releases it if it can, the CPU
exits, the driver's call returns. DESIGN CHOICE (log entry 20): the driver wakes from `wait(done)` within the cycle, so `done`
is never left set between steps. `none` where the CPU stays blocked because no call comes (R331). -/
def State.gatedCycle (s : State) : Option State :=
  match s.enterBegin.driverBegin.enterEnd with
  | some t => some t.exitCycle.driverEnd
  | none => none

/-- Up to `n` gated cycles in a row: how many pass, and the machine after them; where fewer than `n` pass, the CPU stands counted
inside the next `enter_cycle` (R321, R331). -/
def State.gatedCycles : Nat → State → Nat × State
  | 0, s => (0, s)
  | n + 1, s =>
    match s.gatedCycle with
    | some t => ((State.gatedCycles n t).1 + 1, (State.gatedCycles n t).2)
    | none => (0, s.enterBegin)

/-- The state `t` with the gate's counter and signals and the driver's place of `g`. -/
def State.withGate (t g : State) : State :=
  { t with
    cycleCount := g.cycleCount
    go := g.go
    done := g.done
    driverCalls := g.driverCalls
    driverWaiting := g.driverWaiting }

/-- `op_addr` of the instruction under way, or of the one that stands at PC. -/
def State.opAddr (s : State) : Addr :=
  match s.inFlight with
  | none => s.pc
  | some f => f.opAddr

/-- `op` of the instruction under way, or of the one that stands at PC. -/
def State.op (s : State) : Byte :=
  match s.inFlight with
  | none => s.mem.read s.pc.toNat
  | some f => f.op

/-- P as the instruction under way found it. -/
def State.foundP (s : State) : Byte :=
  match s.inFlight with
  | none => s.p
  | some f => f.p

/-- How many gated cycles of the instruction under way have passed. -/
def State.passed (s : State) : Nat :=
  match s.inFlight with
  | none => 0
  | some f => f.passed

/-- What one gated cycle does besides the gate: one memory access and the register, flag and ALU work that follows it (R322,
R328). -/
abbrev Cycle := State → State

/-- Gated cycles done one after the other. -/
def State.runCycles : List Cycle → State → State
  | [], s => s
  | c :: cs, s => State.runCycles cs (c s)

/-- The instruction `i`, whose gated cycles do `cycles`, behind the gate (R322, R330): from its beginning, or from where the
CPU stands in it (R334). As many cycles are done as the gate passes. If all are, the instruction is complete; else the CPU
stands inside the next `enter_cycle`; if it stood there already and nothing passes, it has no step (R331). -/
def State.pace (s : State) (i : Instr) (cycles : List Cycle) : Host.Outcome State Fault Refusal :=
  let todo := cycles.drop s.passed
  let r := s.gatedCycles todo.length
  let t := (s.runCycles (todo.take r.1)).withGate r.2
  if r.1 = todo.length then .next { t with inFlight := none }
  else if r.1 = 0 ∧ s.inFlight.isSome = true then .fault .gateStall
  else .next { t with
    inFlight := some { instr := i, opAddr := s.opAddr, op := s.op, p := s.foundP, passed := s.passed + r.1 } }

end Sys2Proof.Machine
end

