-- ==== Sys2Proof/Machine/Ops.lean ====
section
/-! DEFINITION. The named operations on registers and memory: register writes and the PC halves (spec 10_state.md R25 to R29),
the byte access (20_memory.md R61), the stack (R67, R68), opcode and operand fetch (30_encoding.md R91), raising a decode
error (60_exceptions.md R301, R304), trap entry and return (R307, R310). -/

namespace Sys2Proof.Machine

/-- Write PC (R27). -/
def State.setPC (s : State) (v : Addr) : State := { s with pc := v }

/-- Write S. -/
def State.setSP (s : State) (v : Byte) : State := { s with sp := v }

/-- Write P, all eight bits (R33). -/
def State.setP (s : State) (v : Byte) : State := { s with p := v }

/-- Write A. -/
def State.setA (s : State) (v : Byte) : State := { s with a := v }

/-- Write X. -/
def State.setX (s : State) (v : Byte) : State := { s with x := v }

/-- Write Y. -/
def State.setY (s : State) (v : Byte) : State := { s with y := v }

/-- Read PCH (R25). -/
def State.pch (s : State) : Byte := hiByte s.pc

/-- Read PCL (R25). -/
def State.pcl (s : State) : Byte := loByte s.pc

/-- Write PCL, PCH unchanged (R26). -/
def State.setPCL (s : State) (v : Byte) : State := s.setPC (word s.pch v)

/-- Write PCH, PCL unchanged (R27). -/
def State.setPCH (s : State) (v : Byte) : State := s.setPC (word v s.pcl)

/-- Read a flag. -/
def State.flag (s : State) (f : Flag) : Bool := getFlag s.p f

/-- Write one flag. -/
def State.setFlag (s : State) (f : Flag) (val : Bool) : State := s.setP (putFlag s.p f val)

/-- `setZN(v)` on P (R39). -/
def State.updateZN (s : State) (v : Byte) : State := s.setP (setZN s.p v)

/-- `MemRead(a, 1)` (20_memory.md R61): the byte; nothing changes. That it takes a gated cycle is the `Cycle` it stands in. -/
def State.memRead (s : State) (a : Addr) : Byte := s.mem.read a.toNat

/-- `MemWrite(a, 1, v)` (20_memory.md R61). -/
def State.memWrite (s : State) (a : Addr) (v : Byte) : State := { s with mem := s.mem.write a.toNat v }

/-- A read whose byte is used by a later cycle: nothing of the machine changes. The cycle that uses it reads it again, with no
write between (log entry 9). -/
def State.readOnly : Cycle := fun s => s

/-- `FetchByte()` of a byte the decoder has taken: PC advances (30_encoding.md R91). -/
def State.fetchByte (s : State) : State := s.setPC (s.pc + 1)

/-- The address of the stack byte at offset `v`: `STACK_OFFSET + v` (10_state.md R31). -/
def stackAddr (v : Byte) : Addr := stackOffset + zext16 v

/-- `Push(v)`: write, then decrement S (20_memory.md R67). -/
def State.push (s : State) (v : Byte) : State :=
  let s := s.memWrite (stackAddr s.sp) v
  s.setSP (s.sp - 1)

/-- The first half of `Pull()`: increment S (20_memory.md R68). It precedes the access, so it is work of the cycle before. -/
def State.raiseSP (s : State) : State := s.setSP (s.sp + 1)

/-- The second half of `Pull()`: the byte at S (20_memory.md R68). -/
def State.stackTop (s : State) : Byte := s.memRead (stackAddr s.sp)

/-- `Pull()` (20_memory.md R68). -/
def State.pull (s : State) : Byte × State := (s.raiseSP.stackTop, s.raiseSP)

/-- The address whose low byte was pulled before the byte at S: what the second `Pull()` of a return completes
(44_branch_control.md R250, R252). -/
def State.pulledAddr (s : State) : Addr := word s.stackTop (s.memRead (stackAddr (s.sp - 1)))

/-- Push a return address, high byte first (44_branch_control.md R249, R251): two cycles. -/
def pushAddr (ret : Addr) : List Cycle := [fun s => s.push (hiByte ret), fun s => s.push (loByte ret)]

/-- Append a report to the log (60_exceptions.md R344). -/
def State.report (s : State) (r : Report) : State := { s with reports := s.reports ++ [r] }

/-- Raise a decode error (60_exceptions.md R301, R304): the report `mk op op_addr`, and of the machine only the opcode fetch.
`s.pc` is `op_addr`. -/
def State.raiseDecodeError (s : State) (mk : Byte → Addr → Report) (op : Byte) : State :=
  s.fetchByte.report (mk op s.pc)

/-- `raise IllegalOpcode(op, op_addr)` (60_exceptions.md R301). -/
def State.raiseIllegalOpcode (s : State) (op : Byte) : State := s.raiseDecodeError .illegalOpcode op

/-- `raise NotImplemented(op, op_addr)` (60_exceptions.md R304). Every opcode has its meaning here, so no arm calls it. -/
def State.raiseNotImplemented (s : State) (op : Byte) : State := s.raiseDecodeError .notImplemented op

/-- Trap entry in its gated cycles (60_exceptions.md R307; 44_branch_control.md R249): the opcode fetch, then B and I set; the
return address and P pushed; PC from the IRQ vector. -/
def enterTrap (ret : Addr) : List Cycle :=
  (fun s => (s.fetchByte.setFlag .b true).setFlag .i true) :: pushAddr ret ++
    [fun s => s.push s.p, State.readOnly, fun s => s.setPC (s.mem.wordAt irqVector)]

/-- Trap return in its gated cycles (60_exceptions.md R310; 44_branch_control.md R250): the opcode fetch; P, then PC, from the
stack. -/
def returnFromTrap : List Cycle :=
  [fun s => s.fetchByte.raiseSP, fun s => (s.setP s.stackTop).raiseSP, State.raiseSP, fun s => s.setPC s.pulledAddr]

end Sys2Proof.Machine
end

