-- ==== Sys2Proof/Machine/Operands.lean ====
section
/-! DEFINITION. The addressing-mode resolvers (spec 30_encoding.md R100 to R112) and the operand accesses of the handlers,
each as the gated cycles it takes (60_exceptions.md R328). The operand bytes are those the decoder took from memory, so a
resolver advances PC past them and does not read them again (log entry 9). -/

namespace Sys2Proof.Machine

/-- The effective address: what the memory-mode resolver returns. It reads X, Y and pointer bytes, none of which changes
before the access at the address. -/
def State.ea (s : State) : MemOperand → Addr
  -- R103
  | .zp b => zext16 b
  -- R104
  | .zpx b => zext16 (b + s.x)
  -- R105
  | .zpy b => zext16 (b + s.y)
  -- R106
  | .abs w => w
  -- R107
  | .absx w => w + zext16 s.x
  -- R108
  | .absy w => w + zext16 s.y
  -- R110
  | .izx b => s.mem.wordAtZP (b + s.x)
  -- R111
  | .izy b => s.mem.wordAtZP b + zext16 s.y

/-- The cycles of a memory-mode resolver: a fetch per operand byte, a read per pointer byte (R103 to R111). -/
def resolverCycles : MemOperand → List Cycle
  | .zp _ | .zpx _ | .zpy _ => [State.fetchByte]
  | .abs _ | .absx _ | .absy _ => [State.fetchByte, State.fetchByte]
  | .izx _ | .izy _ => [State.fetchByte, State.readOnly, State.readOnly]

/-- The opcode fetch (R90, R91) and the resolver of a memory mode. -/
def addressCycles (m : MemOperand) : List Cycle := State.fetchByte :: resolverCycles m

/-- The target JMP's resolver returns (R106, R109). -/
def State.jumpTarget (s : State) : JumpOperand → Addr
  | .abs w => w
  | .ind w => s.mem.wordAt w

/-- The operand `M <- MemRead(ea, 1)` of a reading instruction (41_logical_arith_compare.md R141). In immediate mode `ea` is the
operand byte's own address, so what is read there is `b` (R102). -/
def State.operand (s : State) : ReadOperand → Byte
  | .imm b => b
  | .mem m => s.memRead (s.ea m)

/-- A reading instruction in any mode: the opcode fetch and the resolver, then the read of the operand and the handler's
`work`. The immediate resolver reads nothing and moves PC past the byte (R102), which is work of the opcode fetch's cycle. -/
def readCycles (o : ReadOperand) (work : Byte → Cycle) : List Cycle :=
  (match o with
   | .imm _ => [fun s => s.fetchByte.setPC (s.pc + 2)]
   | .mem m => addressCycles m) ++ [fun s => work (s.operand o) s]

/-- A storing instruction: the opcode fetch and the resolver, then the write of `value` (43_load_store_transfer_stack.md
section 2). -/
def storeCycles (m : MemOperand) (value : State → Byte) : List Cycle :=
  addressCycles m ++ [fun s => s.memWrite (s.ea m) (value s)]

/-- A read-modify-write of a memory operand, its two gated phases last (42_incdec_shift.md R170). `f` takes the byte read and
P to the result and the new P; the write phase has the result from the byte, still there, and from `p`, the P the read phase
had. -/
def modifyCycles (m : MemOperand) (p : Byte) (f : Byte → Byte → Byte × Byte) : List Cycle :=
  addressCycles m ++
    [fun s => s.setP (f (s.memRead (s.ea m)) s.p).2, fun s => s.memWrite (s.ea m) (f (s.memRead (s.ea m)) p).1]

/-- A shift of the accumulator, inside the opcode fetch's cycle, or of memory (42_incdec_shift.md R170 and section 3; R117:
the form is chosen by `ea = none`). -/
def shiftCycles (o : ShiftOperand) (p : Byte) (f : Byte → Byte → Byte × Byte) : List Cycle :=
  match o with
  | .acc => [fun s => (s.fetchByte.setA (f s.a s.p).1).setP (f s.a s.p).2]
  | .mem m => modifyCycles m p f

/-- An implied-mode instruction on registers: its `work` inside the opcode fetch's cycle (60_exceptions.md R328). -/
def impliedCycles (work : Cycle) : List Cycle := [fun s => work s.fetchByte]

/-- A push instruction: the opcode fetch, then `Push` (43_load_store_transfer_stack.md section 4). -/
def pushCycles (value : State → Byte) : List Cycle := [State.fetchByte, fun s => s.push (value s)]

/-- A pull instruction: the opcode fetch with `Pull`'s increment, then its read and the handler's `work`
(43_load_store_transfer_stack.md section 4). -/
def pullCycles (work : Byte → Cycle) : List Cycle := [fun s => s.fetchByte.raiseSP, fun s => work s.stackTop s]

end Sys2Proof.Machine
end

