-- ==== Sys2Proof/Machine/Alu.lean ====
section
/-! DEFINITION. The meanings of spec 41_logical_arith_compare.md. -/

namespace Sys2Proof.Machine

/-- ORA (R143). -/
def execOra (o : ReadOperand) (s : State) : Host.Outcome State Fault Refusal :=
  s.pace (.ora o) <| readCycles o fun m s => (s.setA (s.a ||| m)).updateZN (s.a ||| m)

/-- AND (R144). -/
def execAnd (o : ReadOperand) (s : State) : Host.Outcome State Fault Refusal :=
  s.pace (.and o) <| readCycles o fun m s => (s.setA (s.a &&& m)).updateZN (s.a &&& m)

/-- EOR (R145). -/
def execEor (o : ReadOperand) (s : State) : Host.Outcome State Fault Refusal :=
  s.pace (.eor o) <| readCycles o fun m s => (s.setA (s.a ^^^ m)).updateZN (s.a ^^^ m)

/-- ADC (R146): binary whatever D holds (R142). -/
def execAdc (o : ReadOperand) (s : State) : Host.Outcome State Fault Refusal :=
  s.pace (.adc o) <| readCycles o fun m s =>
    let sum := adcSum s.a m (s.flag .c)
    let r := BitVec.ofNat 8 sum
    (s.setA r).setP (arithFlags s.p s.a r (decide (sum > 0xFF)))

/-- SBC (R147): no borrow-in; C is 1 exactly on borrow. -/
def execSbc (o : ReadOperand) (s : State) : Host.Outcome State Fault Refusal :=
  s.pace (.sbc o) <| readCycles o fun m s =>
    let diff := subDiff s.a m
    let r := BitVec.ofInt 8 diff
    (s.setA r).setP (arithFlags s.p s.a r (decide (diff < 0)))

/-- CMP (R148). -/
def execCmp (o : ReadOperand) (s : State) : Host.Outcome State Fault Refusal :=
  s.pace (.cmp o) <| readCycles o fun m s => s.setP (compareFlags s.p s.a m)

/-- CPX (R149). -/
def execCpx (o : ReadOperand) (s : State) : Host.Outcome State Fault Refusal :=
  s.pace (.cpx o) <| readCycles o fun m s => s.setP (compareFlags s.p s.x m)

/-- CPY (R150). -/
def execCpy (o : ReadOperand) (s : State) : Host.Outcome State Fault Refusal :=
  s.pace (.cpy o) <| readCycles o fun m s => s.setP (compareFlags s.p s.y m)

end Sys2Proof.Machine
end

