-- ==== Sys2Proof/Machine/Control.lean ====
section
/-! DEFINITION. The meanings of spec 44_branch_control.md, and the illegal opcode byte (60_exceptions.md R301). -/

namespace Sys2Proof.Machine

/-- A branch (R240): the opcode fetch; then the fetch of the offset, and PC becomes the target, counted from the address after the
operand (30_encoding.md R112), if `cond` holds, else it stays there. -/
def branchCycles (b : Byte) (cond : State → Bool) : List Cycle :=
  [State.fetchByte, fun s => if cond s then s.setPC (s.pc + 1 + sext16 b) else s.fetchByte]

/-- BPL (R241). -/
def execBpl (b : Byte) (s : State) : Host.Outcome State Fault Refusal :=
  s.pace (.bpl b) <| branchCycles b fun s => !s.flag .n

/-- BMI (R242). -/
def execBmi (b : Byte) (s : State) : Host.Outcome State Fault Refusal :=
  s.pace (.bmi b) <| branchCycles b fun s => s.flag .n

/-- BVC (R243). -/
def execBvc (b : Byte) (s : State) : Host.Outcome State Fault Refusal :=
  s.pace (.bvc b) <| branchCycles b fun s => !s.flag .v

/-- BVS (R244). -/
def execBvs (b : Byte) (s : State) : Host.Outcome State Fault Refusal :=
  s.pace (.bvs b) <| branchCycles b fun s => s.flag .v

/-- BCC (R245). -/
def execBcc (b : Byte) (s : State) : Host.Outcome State Fault Refusal :=
  s.pace (.bcc b) <| branchCycles b fun s => !s.flag .c

/-- BCS (R246). -/
def execBcs (b : Byte) (s : State) : Host.Outcome State Fault Refusal :=
  s.pace (.bcs b) <| branchCycles b fun s => s.flag .c

/-- BNE (R247). -/
def execBne (b : Byte) (s : State) : Host.Outcome State Fault Refusal :=
  s.pace (.bne b) <| branchCycles b fun s => !s.flag .z

/-- BEQ (R248). -/
def execBeq (b : Byte) (s : State) : Host.Outcome State Fault Refusal :=
  s.pace (.beq b) <| branchCycles b fun s => s.flag .z

/-- BRK (R249): the return address is `op_addr + 2`, and the byte skipped is not read (R94). -/
def execBrk (s : State) : Host.Outcome State Fault Refusal :=
  s.pace .brk <| enterTrap (s.opAddr + 2)

/-- RTI (R250). -/
def execRti (s : State) : Host.Outcome State Fault Refusal :=
  s.pace .rti returnFromTrap

/-- JSR (R251): the operand word is read before the pushes; the return address is `op_addr + 2`, PC - 1 then. -/
def execJsr (w : Addr) (s : State) : Host.Outcome State Fault Refusal :=
  s.pace (.jsr w) <|
    [State.fetchByte, State.fetchByte, State.fetchByte, fun s => s.push (hiByte (s.pc - 1)),
      fun s => (s.push (loByte (s.pc - 1))).setPC w]

/-- RTS (R252). -/
def execRts (s : State) : Host.Outcome State Fault Refusal :=
  s.pace .rts [fun s => s.fetchByte.raiseSP, State.raiseSP, fun s => s.setPC (s.pulledAddr + 1)]

/-- JMP (R253): the two bytes of the operand, in indirect mode the two of the pointer, and then PC. -/
def execJmp (t : JumpOperand) (s : State) : Host.Outcome State Fault Refusal :=
  s.pace (.jmp t) <|
    match t with
    | .abs _ => [State.fetchByte, State.fetchByte, fun s => s.setPC (s.jumpTarget t)]
    | .ind _ => [State.fetchByte, State.fetchByte, State.fetchByte, State.readOnly, fun s => s.setPC (s.jumpTarget t)]

/-- BIT (R254). -/
def execBit (m : MemOperand) (s : State) : Host.Outcome State Fault Refusal :=
  s.pace (.bit m) <| readCycles (.mem m) fun v s => s.setP (bitFlags s.p s.a v)

/-- CLC (R256). -/
def execClc (s : State) : Host.Outcome State Fault Refusal :=
  s.pace .clc <| impliedCycles fun s => s.setFlag .c false

/-- SEC (R257). -/
def execSec (s : State) : Host.Outcome State Fault Refusal :=
  s.pace .sec <| impliedCycles fun s => s.setFlag .c true

/-- CLD (R258). -/
def execCld (s : State) : Host.Outcome State Fault Refusal :=
  s.pace .cld <| impliedCycles fun s => s.setFlag .d false

/-- SED (R259). -/
def execSed (s : State) : Host.Outcome State Fault Refusal :=
  s.pace .sed <| impliedCycles fun s => s.setFlag .d true

/-- CLI (R260). -/
def execCli (s : State) : Host.Outcome State Fault Refusal :=
  s.pace .cli <| impliedCycles fun s => s.setFlag .i false

/-- SEI (R261). -/
def execSei (s : State) : Host.Outcome State Fault Refusal :=
  s.pace .sei <| impliedCycles fun s => s.setFlag .i true

/-- CLV (R262). -/
def execClv (s : State) : Host.Outcome State Fault Refusal :=
  s.pace .clv <| impliedCycles fun s => s.setFlag .v false

/-- NOP (R263). -/
def execNop (s : State) : Host.Outcome State Fault Refusal :=
  s.pace .nop [State.fetchByte]

/-- An illegal opcode byte (R115): IllegalOpcode is raised, and nothing else happens. -/
def execIllegal (op : Byte) (s : State) : Host.Outcome State Fault Refusal :=
  s.pace (.illegal op) [fun s => s.raiseIllegalOpcode op]

end Sys2Proof.Machine
end

