-- ==== Sys2Proof/Machine/IncDecShift.lean ====
section
/-! DEFINITION. The meanings of spec 42_incdec_shift.md. -/

namespace Sys2Proof.Machine

/-- INC (R171). -/
def execInc (m : MemOperand) (s : State) : Host.Outcome State Fault Refusal :=
  s.pace (.inc m) <| modifyCycles m s.foundP fun v p => (v + 1, setZN p (v + 1))

/-- DEC (R172). -/
def execDec (m : MemOperand) (s : State) : Host.Outcome State Fault Refusal :=
  s.pace (.dec m) <| modifyCycles m s.foundP fun v p => (v - 1, setZN p (v - 1))

/-- INX (R173). -/
def execInx (s : State) : Host.Outcome State Fault Refusal :=
  s.pace .inx <| impliedCycles fun s => (s.setX (s.x + 1)).updateZN (s.x + 1)

/-- DEX (R174). -/
def execDex (s : State) : Host.Outcome State Fault Refusal :=
  s.pace .dex <| impliedCycles fun s => (s.setX (s.x - 1)).updateZN (s.x - 1)

/-- INY (R175). -/
def execIny (s : State) : Host.Outcome State Fault Refusal :=
  s.pace .iny <| impliedCycles fun s => (s.setY (s.y + 1)).updateZN (s.y + 1)

/-- DEY (R176). -/
def execDey (s : State) : Host.Outcome State Fault Refusal :=
  s.pace .dey <| impliedCycles fun s => (s.setY (s.y - 1)).updateZN (s.y - 1)

/-- A left shift of `v` with `cin` shifted in: the result and P (R177, R179). -/
def shiftLeft (cin : Bool) (v p : Byte) : Byte × Byte :=
  let r := (v <<< 1) ||| (BitVec.ofBool cin).setWidth 8
  (r, leftShiftFlags p r (v.getLsbD 7))

/-- A right shift of `v` with `cin` shifted in: the result and P (R178, R180). -/
def shiftRight (cin : Bool) (v p : Byte) : Byte × Byte :=
  let r := (v >>> 1) ||| ((BitVec.ofBool cin).setWidth 8 <<< 7)
  (r, rightShiftFlags p r (v.getLsbD 0))

/-- ASL (R177). -/
def execAsl (o : ShiftOperand) (s : State) : Host.Outcome State Fault Refusal :=
  s.pace (.asl o) <| shiftCycles o s.foundP fun v p => shiftLeft false v p

/-- LSR (R178). -/
def execLsr (o : ShiftOperand) (s : State) : Host.Outcome State Fault Refusal :=
  s.pace (.lsr o) <| shiftCycles o s.foundP fun v p => shiftRight false v p

/-- ROL (R179): the old C is shifted in. -/
def execRol (o : ShiftOperand) (s : State) : Host.Outcome State Fault Refusal :=
  s.pace (.rol o) <| shiftCycles o s.foundP fun v p => shiftLeft (getFlag p .c) v p

/-- ROR (R180): the old C is shifted in. -/
def execRor (o : ShiftOperand) (s : State) : Host.Outcome State Fault Refusal :=
  s.pace (.ror o) <| shiftCycles o s.foundP fun v p => shiftRight (getFlag p .c) v p

end Sys2Proof.Machine
end

