-- ==== Sys2Proof/Machine/LoadStore.lean ====
section
/-! DEFINITION. The meanings of spec 43_load_store_transfer_stack.md. -/

namespace Sys2Proof.Machine

/-- LDA (R200). -/
def execLda (o : ReadOperand) (s : State) : Host.Outcome State Fault Refusal :=
  s.pace (.lda o) <| readCycles o fun m s => (s.setA m).updateZN m

/-- LDX (R201). -/
def execLdx (o : ReadOperand) (s : State) : Host.Outcome State Fault Refusal :=
  s.pace (.ldx o) <| readCycles o fun m s => (s.setX m).updateZN m

/-- LDY (R202). -/
def execLdy (o : ReadOperand) (s : State) : Host.Outcome State Fault Refusal :=
  s.pace (.ldy o) <| readCycles o fun m s => (s.setY m).updateZN m

/-- STA (R203): no flag is written. -/
def execSta (m : MemOperand) (s : State) : Host.Outcome State Fault Refusal :=
  s.pace (.sta m) <| storeCycles m State.a

/-- STX (R204): no flag is written. -/
def execStx (m : MemOperand) (s : State) : Host.Outcome State Fault Refusal :=
  s.pace (.stx m) <| storeCycles m State.x

/-- STY (R205): no flag is written. -/
def execSty (m : MemOperand) (s : State) : Host.Outcome State Fault Refusal :=
  s.pace (.sty m) <| storeCycles m State.y

/-- TAX (R206). -/
def execTax (s : State) : Host.Outcome State Fault Refusal :=
  s.pace .tax <| impliedCycles fun s => (s.setX s.a).updateZN s.a

/-- TXA (R207). -/
def execTxa (s : State) : Host.Outcome State Fault Refusal :=
  s.pace .txa <| impliedCycles fun s => (s.setA s.x).updateZN s.x

/-- TAY (R208). -/
def execTay (s : State) : Host.Outcome State Fault Refusal :=
  s.pace .tay <| impliedCycles fun s => (s.setY s.a).updateZN s.a

/-- TYA (R209). -/
def execTya (s : State) : Host.Outcome State Fault Refusal :=
  s.pace .tya <| impliedCycles fun s => (s.setA s.y).updateZN s.y

/-- TSX (R210). -/
def execTsx (s : State) : Host.Outcome State Fault Refusal :=
  s.pace .tsx <| impliedCycles fun s => (s.setX s.sp).updateZN s.sp

/-- TXS (R211): no flag is written. -/
def execTxs (s : State) : Host.Outcome State Fault Refusal :=
  s.pace .txs <| impliedCycles fun s => s.setSP s.x

/-- PHA (R212). -/
def execPha (s : State) : Host.Outcome State Fault Refusal :=
  s.pace .pha <| pushCycles State.a

/-- PLA (R213). -/
def execPla (s : State) : Host.Outcome State Fault Refusal :=
  s.pace .pla <| pullCycles fun v s => (s.setA v).updateZN v

/-- PHP (R214): P as stored, B and U included. -/
def execPhp (s : State) : Host.Outcome State Fault Refusal :=
  s.pace .php <| pushCycles State.p

/-- PLP (R215): all eight bits. -/
def execPlp (s : State) : Host.Outcome State Fault Refusal :=
  s.pace .plp <| pullCycles fun v s => s.setP v

end Sys2Proof.Machine
end

