-- ==== Sys2Proof/Machine/HostPort.lean ====
section
/-! DEFINITION. The host's side of the machine (spec 60_exceptions.md R340 to R345, 10_state.md R43, 70_reset_and_hazards.md
R350): operations the host may apply between two steps, and the clock driver's call that arrives there (R329). `State.new` and
`State.hostReset` are in Machine/State.lean. -/

namespace Sys2Proof.Machine

/-- `start()` (R341). -/
def State.start (s : State) : State := { s with running := true, stopRequested := false, executed := 0 }

/-- `stop(blocking)` (R342): the flag the loop sees at its next boundary. -/
def State.requestStop (s : State) : State := { s with stopRequested := true }

/-- What the host, and the clock driver between two steps, can do to the machine. -/
inductive HostOp where
  /-- Write a memory byte (R345, R352). -/
  | load (a : Addr) (v : Byte)
  /-- The register accessors (10_state.md R43). -/
  | writePC (v : Addr)
  | writePCH (v : Byte)
  | writePCL (v : Byte)
  | writeS (v : Byte)
  | writeP (v : Byte)
  | writeA (v : Byte)
  | writeX (v : Byte)
  | writeY (v : Byte)
  /-- The reset sequence (70_reset_and_hazards.md R350), which the spec has the host perform once, before the first `start()`.
  DESIGN CHOICE (log entry 21): a stopped engine may be reset at any time and again, after a run too, with the same effect. -/
  | reset
  /-- `start()` (R341). -/
  | start
  /-- `stop(blocking)` (R342). -/
  | stop (blocking : Bool)
  /-- `join()` (R343). -/
  | join
  /-- The clock driver calls `start_cycle()` between two steps: `go` is set and the driver waits (R325, R329), for ever if the
  loop has exited (R331). A CPU that stands inside `enter_cycle` goes on in the next step (R334). -/
  | startCycle
  /-- The clock driver decides its further calls: that many as soon as the CPU waits for one, `none` for no end. Its schedule is
  free (93_implementation_defined.md K9), and this is the model's own way to say so (log entry 5). -/
  | schedule (calls : Option Nat)
deriving DecidableEq, Repr

/-- The operation may be done while the engine runs (R345): of the host's, only a stop request and a join. -/
def HostOp.whileRunning : HostOp → Bool
  | .stop _ | .join | .startCycle | .schedule _ => true
  | .load _ _ | .writePC _ | .writePCH _ | .writePCL _ | .writeS _ | .writeP _ | .writeA _ | .writeX _ | .writeY _ => false
  | .reset | .start => false

/-- The effect of an operation on the machine. An accessor stores the value and touches nothing else (decision D30). -/
def HostOp.effect (op : HostOp) (s : State) : State :=
  match op with
  | .load a v => s.memWrite a v
  | .writePC v => s.setPC v
  | .writePCH v => s.setPCH v
  | .writePCL v => s.setPCL v
  | .writeS v => s.setSP v
  | .writeP v => s.setP v
  | .writeA v => s.setA v
  | .writeX v => s.setX v
  | .writeY v => s.setY v
  | .reset => s.hostReset
  | .start => s.start
  | .stop _ => s.requestStop
  | .join => s
  | .startCycle => s.startCycle
  | .schedule calls => { s with driverCalls := calls }

/-- One operation. A write, a reset or a start during a run has no move (R341, R345; 93_implementation_defined.md K8), nor has
a second `start_cycle` of a driver that waits inside one (R325). A reset of a stopped engine is admitted at any time: DESIGN
CHOICE (log entry 21). -/
def State.hostDo (op : HostOp) (s : State) : Host.Outcome State Fault Refusal :=
  if s.running && !op.whileRunning then .refused .hostWhileRunning
  else if op == .startCycle && s.driverWaiting then .refused .driverInCall
  else .next (op.effect s)

/-- The call has returned to the host once the machine is in state `s`: a blocking stop and a join wait for the loop's exit
(R342, R343), a driver's call for the end of its gated cycle (R325), every other call returns at once. -/
def HostOp.returned (op : HostOp) (s : State) : Bool :=
  match op with
  | .stop blocking => !blocking || !s.running
  | .join => !s.running
  | .startCycle => !s.driverWaiting
  | .load _ _ | .writePC _ | .writePCH _ | .writePCL _ | .writeS _ | .writeP _ | .writeA _ | .writeX _ | .writeY _ => true
  | .reset | .start | .schedule _ => true

end Sys2Proof.Machine
end

