-- ==== Sys2Proof/WellFormed.lean ====
section
/-! DEFINITION. Which constructor and mode pairs the opcode map has: the Encoding line of each mnemonic's rule in spec
41 to 44, and the list of the illegal bytes in 30_encoding.md R115. Decode.lean's map is written separately, from R114. -/

namespace Sys2Proof

/-- The memory modes of ORA AND EOR ADC SBC CMP LDA STA (R143 to R148, R200, R203): all but zeropage,Y. -/
def MemOperand.isAlu : MemOperand → Bool
  | .zp _ | .zpx _ | .abs _ | .absx _ | .absy _ | .izx _ | .izy _ => true
  | .zpy _ => false

/-- The memory modes of INC DEC ASL LSR ROL ROR (R171, R172, R177 to R180) and of LDY (R202). -/
def MemOperand.isXIndexed : MemOperand → Bool
  | .zp _ | .zpx _ | .abs _ | .absx _ => true
  | .zpy _ | .absy _ | .izx _ | .izy _ => false

/-- The memory modes of LDX (R201). -/
def MemOperand.isYIndexed : MemOperand → Bool
  | .zp _ | .zpy _ | .abs _ | .absy _ => true
  | .zpx _ | .absx _ | .izx _ | .izy _ => false

/-- The memory modes of CPX CPY BIT (R149, R150, R254). -/
def MemOperand.isPlain : MemOperand → Bool
  | .zp _ | .abs _ => true
  | .zpx _ | .zpy _ | .absx _ | .absy _ | .izx _ | .izy _ => false

/-- The memory modes of STX (R204). -/
def MemOperand.isStx : MemOperand → Bool
  | .zp _ | .zpy _ | .abs _ => true
  | .zpx _ | .absx _ | .absy _ | .izx _ | .izy _ => false

/-- The memory modes of STY (R205). -/
def MemOperand.isSty : MemOperand → Bool
  | .zp _ | .zpx _ | .abs _ => true
  | .zpy _ | .absx _ | .absy _ | .izx _ | .izy _ => false

/-- A reading instruction that has an immediate form and the memory modes `modes`. -/
def ReadOperand.immOr (modes : MemOperand → Bool) : ReadOperand → Bool
  | .imm _ => true
  | .mem m => modes m

/-- The forms of a shift (R177 to R180): accumulator, zp, zpx, abs, absx. -/
def ShiftOperand.isShift : ShiftOperand → Bool
  | .acc => true
  | .mem m => m.isXIndexed

/-- The 105 illegal opcode bytes, as 30_encoding.md R115 lists them. -/
def illegalBytes : List Byte :=
  [0x02, 0x03, 0x04, 0x07, 0x0B, 0x0C, 0x0F, 0x12, 0x13, 0x14, 0x17, 0x1A, 0x1B, 0x1C, 0x1F, 0x22] ++
  [0x23, 0x27, 0x2B, 0x2F, 0x32, 0x33, 0x34, 0x37, 0x3A, 0x3B, 0x3C, 0x3F, 0x42, 0x43, 0x44, 0x47] ++
  [0x4B, 0x4F, 0x52, 0x53, 0x54, 0x57, 0x5A, 0x5B, 0x5C, 0x5F, 0x62, 0x63, 0x64, 0x67, 0x6B, 0x6F] ++
  [0x72, 0x73, 0x74, 0x77, 0x7A, 0x7B, 0x7C, 0x7F, 0x80, 0x82, 0x83, 0x87, 0x89, 0x8B, 0x8F, 0x92] ++
  [0x93, 0x97, 0x9B, 0x9C, 0x9E, 0x9F, 0xA3, 0xA7, 0xAB, 0xAF, 0xB2, 0xB3, 0xB7, 0xBB, 0xBF, 0xC2] ++
  [0xC3, 0xC7, 0xCB, 0xCF, 0xD2, 0xD3, 0xD4, 0xD7, 0xDA, 0xDB, 0xDC, 0xDF, 0xE2, 0xE3, 0xE7, 0xEB] ++
  [0xEF, 0xF2, 0xF3, 0xF4, 0xF7, 0xFA, 0xFB, 0xFC, 0xFF]

/-- The instruction stands in the opcode table. -/
def Instr.wellFormed : Instr → Bool
  | .ora o | .and o | .eor o | .adc o | .sbc o | .cmp o | .lda o => o.immOr MemOperand.isAlu
  | .cpx o | .cpy o => o.immOr MemOperand.isPlain
  | .ldx o => o.immOr MemOperand.isYIndexed
  | .ldy o => o.immOr MemOperand.isXIndexed
  | .sta m => m.isAlu
  | .stx m => m.isStx
  | .sty m => m.isSty
  | .bit m => m.isPlain
  | .inc m | .dec m => m.isXIndexed
  | .asl o | .lsr o | .rol o | .ror o => o.isShift
  | .jmp (.abs _) | .jmp (.ind _) => true
  | .bpl _ | .bmi _ | .bvc _ | .bvs _ | .bcc _ | .bcs _ | .bne _ | .beq _ => true
  | .jsr _ => true
  | .inx | .dex | .iny | .dey => true
  | .tax | .txa | .tay | .tya | .tsx | .txs | .pha | .pla | .php | .plp => true
  | .brk | .rti | .rts => true
  | .clc | .sec | .cld | .sed | .cli | .sei | .clv | .nop => true
  | .illegal op => illegalBytes.contains op

end Sys2Proof
end

