-- ==== Sys2Proof/Decode.lean ====
section
/-! DEFINITION. The decoder, from the opcode map of spec 30_encoding.md R114 and the formats of R93, total on every byte; after it
the encoder, from the Encoding lines of the instruction rules in 41 to 44. -/

namespace Sys2Proof

/-- What an opcode byte selects (R93): a whole instruction (F1), or one that waits for its operand byte (F2) or word (F3). -/
inductive Format where
  | f1 (i : Instr)
  | f2 (mk : Byte → Instr)
  | f3 (mk : Addr → Instr)

/-- A one-byte entry of the map. -/
def f1 (i : Instr) : Option Format := some (.f1 i)

/-- A two-byte entry of the map. -/
def f2 (mk : Byte → Instr) : Option Format := some (.f2 mk)

/-- A three-byte entry of the map. -/
def f3 (mk : Addr → Instr) : Option Format := some (.f3 mk)

/-- Row 0x of the map (R114). -/
def opcodeRow0 : List (Option Format) := [
  f1 .brk, f2 (.ora <| .mem <| .izx ·), none, none,
  none, f2 (.ora <| .mem <| .zp ·), f2 (.asl <| .mem <| .zp ·), none,
  f1 .php, f2 (.ora <| .imm ·), f1 (.asl .acc), none,
  none, f3 (.ora <| .mem <| .abs ·), f3 (.asl <| .mem <| .abs ·), none]

/-- Row 1x of the map (R114). -/
def opcodeRow1 : List (Option Format) := [
  f2 .bpl, f2 (.ora <| .mem <| .izy ·), none, none,
  none, f2 (.ora <| .mem <| .zpx ·), f2 (.asl <| .mem <| .zpx ·), none,
  f1 .clc, f3 (.ora <| .mem <| .absy ·), none, none,
  none, f3 (.ora <| .mem <| .absx ·), f3 (.asl <| .mem <| .absx ·), none]

/-- Row 2x of the map (R114). -/
def opcodeRow2 : List (Option Format) := [
  f3 .jsr, f2 (.and <| .mem <| .izx ·), none, none,
  f2 (.bit <| .zp ·), f2 (.and <| .mem <| .zp ·), f2 (.rol <| .mem <| .zp ·), none,
  f1 .plp, f2 (.and <| .imm ·), f1 (.rol .acc), none,
  f3 (.bit <| .abs ·), f3 (.and <| .mem <| .abs ·), f3 (.rol <| .mem <| .abs ·), none]

/-- Row 3x of the map (R114). -/
def opcodeRow3 : List (Option Format) := [
  f2 .bmi, f2 (.and <| .mem <| .izy ·), none, none,
  none, f2 (.and <| .mem <| .zpx ·), f2 (.rol <| .mem <| .zpx ·), none,
  f1 .sec, f3 (.and <| .mem <| .absy ·), none, none,
  none, f3 (.and <| .mem <| .absx ·), f3 (.rol <| .mem <| .absx ·), none]

/-- Row 4x of the map (R114). -/
def opcodeRow4 : List (Option Format) := [
  f1 .rti, f2 (.eor <| .mem <| .izx ·), none, none,
  none, f2 (.eor <| .mem <| .zp ·), f2 (.lsr <| .mem <| .zp ·), none,
  f1 .pha, f2 (.eor <| .imm ·), f1 (.lsr .acc), none,
  f3 (.jmp <| .abs ·), f3 (.eor <| .mem <| .abs ·), f3 (.lsr <| .mem <| .abs ·), none]

/-- Row 5x of the map (R114). -/
def opcodeRow5 : List (Option Format) := [
  f2 .bvc, f2 (.eor <| .mem <| .izy ·), none, none,
  none, f2 (.eor <| .mem <| .zpx ·), f2 (.lsr <| .mem <| .zpx ·), none,
  f1 .cli, f3 (.eor <| .mem <| .absy ·), none, none,
  none, f3 (.eor <| .mem <| .absx ·), f3 (.lsr <| .mem <| .absx ·), none]

/-- Row 6x of the map (R114). -/
def opcodeRow6 : List (Option Format) := [
  f1 .rts, f2 (.adc <| .mem <| .izx ·), none, none,
  none, f2 (.adc <| .mem <| .zp ·), f2 (.ror <| .mem <| .zp ·), none,
  f1 .pla, f2 (.adc <| .imm ·), f1 (.ror .acc), none,
  f3 (.jmp <| .ind ·), f3 (.adc <| .mem <| .abs ·), f3 (.ror <| .mem <| .abs ·), none]

/-- Row 7x of the map (R114). -/
def opcodeRow7 : List (Option Format) := [
  f2 .bvs, f2 (.adc <| .mem <| .izy ·), none, none,
  none, f2 (.adc <| .mem <| .zpx ·), f2 (.ror <| .mem <| .zpx ·), none,
  f1 .sei, f3 (.adc <| .mem <| .absy ·), none, none,
  none, f3 (.adc <| .mem <| .absx ·), f3 (.ror <| .mem <| .absx ·), none]

/-- Row 8x of the map (R114). -/
def opcodeRow8 : List (Option Format) := [
  none, f2 (.sta <| .izx ·), none, none,
  f2 (.sty <| .zp ·), f2 (.sta <| .zp ·), f2 (.stx <| .zp ·), none,
  f1 .dey, none, f1 .txa, none,
  f3 (.sty <| .abs ·), f3 (.sta <| .abs ·), f3 (.stx <| .abs ·), none]

/-- Row 9x of the map (R114). -/
def opcodeRow9 : List (Option Format) := [
  f2 .bcc, f2 (.sta <| .izy ·), none, none,
  f2 (.sty <| .zpx ·), f2 (.sta <| .zpx ·), f2 (.stx <| .zpy ·), none,
  f1 .tya, f3 (.sta <| .absy ·), f1 .txs, none,
  none, f3 (.sta <| .absx ·), none, none]

/-- Row Ax of the map (R114). -/
def opcodeRowA : List (Option Format) := [
  f2 (.ldy <| .imm ·), f2 (.lda <| .mem <| .izx ·), f2 (.ldx <| .imm ·), none,
  f2 (.ldy <| .mem <| .zp ·), f2 (.lda <| .mem <| .zp ·), f2 (.ldx <| .mem <| .zp ·), none,
  f1 .tay, f2 (.lda <| .imm ·), f1 .tax, none,
  f3 (.ldy <| .mem <| .abs ·), f3 (.lda <| .mem <| .abs ·), f3 (.ldx <| .mem <| .abs ·), none]

/-- Row Bx of the map (R114). -/
def opcodeRowB : List (Option Format) := [
  f2 .bcs, f2 (.lda <| .mem <| .izy ·), none, none,
  f2 (.ldy <| .mem <| .zpx ·), f2 (.lda <| .mem <| .zpx ·), f2 (.ldx <| .mem <| .zpy ·), none,
  f1 .clv, f3 (.lda <| .mem <| .absy ·), f1 .tsx, none,
  f3 (.ldy <| .mem <| .absx ·), f3 (.lda <| .mem <| .absx ·), f3 (.ldx <| .mem <| .absy ·), none]

/-- Row Cx of the map (R114). -/
def opcodeRowC : List (Option Format) := [
  f2 (.cpy <| .imm ·), f2 (.cmp <| .mem <| .izx ·), none, none,
  f2 (.cpy <| .mem <| .zp ·), f2 (.cmp <| .mem <| .zp ·), f2 (.dec <| .zp ·), none,
  f1 .iny, f2 (.cmp <| .imm ·), f1 .dex, none,
  f3 (.cpy <| .mem <| .abs ·), f3 (.cmp <| .mem <| .abs ·), f3 (.dec <| .abs ·), none]

/-- Row Dx of the map (R114). -/
def opcodeRowD : List (Option Format) := [
  f2 .bne, f2 (.cmp <| .mem <| .izy ·), none, none,
  none, f2 (.cmp <| .mem <| .zpx ·), f2 (.dec <| .zpx ·), none,
  f1 .cld, f3 (.cmp <| .mem <| .absy ·), none, none,
  none, f3 (.cmp <| .mem <| .absx ·), f3 (.dec <| .absx ·), none]

/-- Row Ex of the map (R114). -/
def opcodeRowE : List (Option Format) := [
  f2 (.cpx <| .imm ·), f2 (.sbc <| .mem <| .izx ·), none, none,
  f2 (.cpx <| .mem <| .zp ·), f2 (.sbc <| .mem <| .zp ·), f2 (.inc <| .zp ·), none,
  f1 .inx, f2 (.sbc <| .imm ·), f1 .nop, none,
  f3 (.cpx <| .mem <| .abs ·), f3 (.sbc <| .mem <| .abs ·), f3 (.inc <| .abs ·), none]

/-- Row Fx of the map (R114). -/
def opcodeRowF : List (Option Format) := [
  f2 .beq, f2 (.sbc <| .mem <| .izy ·), none, none,
  none, f2 (.sbc <| .mem <| .zpx ·), f2 (.inc <| .zpx ·), none,
  f1 .sed, f3 (.sbc <| .mem <| .absy ·), none, none,
  none, f3 (.sbc <| .mem <| .absx ·), f3 (.inc <| .absx ·), none]

/-- The opcode map of R114: row the high nibble, column the low nibble, `none` where the map has `-`. -/
def opcodeMap : List (List (Option Format)) :=
  [opcodeRow0, opcodeRow1, opcodeRow2, opcodeRow3] ++ [opcodeRow4, opcodeRow5, opcodeRow6, opcodeRow7] ++
  [opcodeRow8, opcodeRow9, opcodeRowA, opcodeRowB] ++ [opcodeRowC, opcodeRowD, opcodeRowE, opcodeRowF]

/-- The opcode byte alone selects the mnemonic and the mode (R93, R95); a byte without an entry is illegal (R115). -/
def decodeOpcode (op : Byte) : Format :=
  match opcodeMap[op.toNat / 16]? with
  | none => .f1 (.illegal op)
  | some row =>
    match row[op.toNat % 16]? with
    | some (some f) => f
    | _ => .f1 (.illegal op)

/-- Operand assembly (R93, R92): `b` is byte 1; the word is byte 2 : byte 1, low byte first. -/
def Format.build (f : Format) (b1 b2 : Byte) : Instr :=
  match f with
  | .f1 i => i
  | .f2 mk => mk b1
  | .f3 mk => mk (word b2 b1)

/-- The instruction of opcode byte `op` whose following bytes are `b1` and `b2`; a shorter format ignores them. -/
def decodeBytes (op b1 b2 : Byte) : Instr := (decodeOpcode op).build b1 b2

/-- Why a list of bytes does not begin with a whole instruction. -/
inductive DecodeError where
  /-- There is no opcode byte. -/
  | empty
  /-- The opcode's operand bytes are not all there. -/
  | truncated
deriving DecidableEq, Repr

/-- The instruction at the head of a list of bytes, and the bytes after it. -/
def decode : List Byte → Except DecodeError (Instr × List Byte)
  | [] => .error .empty
  | op :: rest =>
    match decodeOpcode op, rest with
    | .f1 i, rest => .ok (i, rest)
    | .f2 mk, b :: rest => .ok (mk b, rest)
    | .f3 mk, lo :: hi :: rest => .ok (mk (word hi lo), rest)
    | _, _ => .error .truncated

/-- The table numbers an instruction's bits from bit 0 of its first byte; the bits from `nbits` up are 0. -/
def tableBytes (nbits w : Nat) : List Byte :=
  let w := w % 2 ^ nbits
  [BitVec.ofNat 8 w, BitVec.ofNat 8 (w / 256), BitVec.ofNat 8 (w / 65536)]

/-- The instruction this decoder reads from the table's bits `w`. -/
def decodeTableWord (nbits w : Nat) : Option Instr :=
  match decode (tableBytes nbits w) with
  | .ok (i, _) => some i
  | .error _ => none

/-- The opcode byte of each form (the Encoding line of its rule in 41 to 44; R115 for an illegal byte); `none` for a form that
has no opcode. -/
def Instr.opcode : Instr → Option Byte
  | .ora o =>
    match o with
    | .mem (.izx _) => some 0x01
    | .mem (.zp _) => some 0x05
    | .imm _ => some 0x09
    | .mem (.abs _) => some 0x0D
    | .mem (.izy _) => some 0x11
    | .mem (.zpx _) => some 0x15
    | .mem (.absy _) => some 0x19
    | .mem (.absx _) => some 0x1D
    | .mem (.zpy _) => none
  | .and o =>
    match o with
    | .mem (.izx _) => some 0x21
    | .mem (.zp _) => some 0x25
    | .imm _ => some 0x29
    | .mem (.abs _) => some 0x2D
    | .mem (.izy _) => some 0x31
    | .mem (.zpx _) => some 0x35
    | .mem (.absy _) => some 0x39
    | .mem (.absx _) => some 0x3D
    | .mem (.zpy _) => none
  | .eor o =>
    match o with
    | .mem (.izx _) => some 0x41
    | .mem (.zp _) => some 0x45
    | .imm _ => some 0x49
    | .mem (.abs _) => some 0x4D
    | .mem (.izy _) => some 0x51
    | .mem (.zpx _) => some 0x55
    | .mem (.absy _) => some 0x59
    | .mem (.absx _) => some 0x5D
    | .mem (.zpy _) => none
  | .adc o =>
    match o with
    | .mem (.izx _) => some 0x61
    | .mem (.zp _) => some 0x65
    | .imm _ => some 0x69
    | .mem (.abs _) => some 0x6D
    | .mem (.izy _) => some 0x71
    | .mem (.zpx _) => some 0x75
    | .mem (.absy _) => some 0x79
    | .mem (.absx _) => some 0x7D
    | .mem (.zpy _) => none
  | .sbc o =>
    match o with
    | .mem (.izx _) => some 0xE1
    | .mem (.zp _) => some 0xE5
    | .imm _ => some 0xE9
    | .mem (.abs _) => some 0xED
    | .mem (.izy _) => some 0xF1
    | .mem (.zpx _) => some 0xF5
    | .mem (.absy _) => some 0xF9
    | .mem (.absx _) => some 0xFD
    | .mem (.zpy _) => none
  | .cmp o =>
    match o with
    | .mem (.izx _) => some 0xC1
    | .mem (.zp _) => some 0xC5
    | .imm _ => some 0xC9
    | .mem (.abs _) => some 0xCD
    | .mem (.izy _) => some 0xD1
    | .mem (.zpx _) => some 0xD5
    | .mem (.absy _) => some 0xD9
    | .mem (.absx _) => some 0xDD
    | .mem (.zpy _) => none
  | .cpx o =>
    match o with
    | .imm _ => some 0xE0
    | .mem (.zp _) => some 0xE4
    | .mem (.abs _) => some 0xEC
    | .mem (.zpx _) | .mem (.zpy _) | .mem (.absx _) | .mem (.absy _) | .mem (.izx _) | .mem (.izy _) => none
  | .cpy o =>
    match o with
    | .imm _ => some 0xC0
    | .mem (.zp _) => some 0xC4
    | .mem (.abs _) => some 0xCC
    | .mem (.zpx _) | .mem (.zpy _) | .mem (.absx _) | .mem (.absy _) | .mem (.izx _) | .mem (.izy _) => none
  | .inc m =>
    match m with
    | .zp _ => some 0xE6
    | .abs _ => some 0xEE
    | .zpx _ => some 0xF6
    | .absx _ => some 0xFE
    | .zpy _ | .absy _ | .izx _ | .izy _ => none
  | .dec m =>
    match m with
    | .zp _ => some 0xC6
    | .abs _ => some 0xCE
    | .zpx _ => some 0xD6
    | .absx _ => some 0xDE
    | .zpy _ | .absy _ | .izx _ | .izy _ => none
  | .inx => some 0xE8
  | .dex => some 0xCA
  | .iny => some 0xC8
  | .dey => some 0x88
  | .asl o =>
    match o with
    | .mem (.zp _) => some 0x06
    | .acc => some 0x0A
    | .mem (.abs _) => some 0x0E
    | .mem (.zpx _) => some 0x16
    | .mem (.absx _) => some 0x1E
    | .mem (.zpy _) | .mem (.absy _) | .mem (.izx _) | .mem (.izy _) => none
  | .lsr o =>
    match o with
    | .mem (.zp _) => some 0x46
    | .acc => some 0x4A
    | .mem (.abs _) => some 0x4E
    | .mem (.zpx _) => some 0x56
    | .mem (.absx _) => some 0x5E
    | .mem (.zpy _) | .mem (.absy _) | .mem (.izx _) | .mem (.izy _) => none
  | .rol o =>
    match o with
    | .mem (.zp _) => some 0x26
    | .acc => some 0x2A
    | .mem (.abs _) => some 0x2E
    | .mem (.zpx _) => some 0x36
    | .mem (.absx _) => some 0x3E
    | .mem (.zpy _) | .mem (.absy _) | .mem (.izx _) | .mem (.izy _) => none
  | .ror o =>
    match o with
    | .mem (.zp _) => some 0x66
    | .acc => some 0x6A
    | .mem (.abs _) => some 0x6E
    | .mem (.zpx _) => some 0x76
    | .mem (.absx _) => some 0x7E
    | .mem (.zpy _) | .mem (.absy _) | .mem (.izx _) | .mem (.izy _) => none
  | .lda o =>
    match o with
    | .mem (.izx _) => some 0xA1
    | .mem (.zp _) => some 0xA5
    | .imm _ => some 0xA9
    | .mem (.abs _) => some 0xAD
    | .mem (.izy _) => some 0xB1
    | .mem (.zpx _) => some 0xB5
    | .mem (.absy _) => some 0xB9
    | .mem (.absx _) => some 0xBD
    | .mem (.zpy _) => none
  | .ldx o =>
    match o with
    | .imm _ => some 0xA2
    | .mem (.zp _) => some 0xA6
    | .mem (.abs _) => some 0xAE
    | .mem (.zpy _) => some 0xB6
    | .mem (.absy _) => some 0xBE
    | .mem (.zpx _) | .mem (.absx _) | .mem (.izx _) | .mem (.izy _) => none
  | .ldy o =>
    match o with
    | .imm _ => some 0xA0
    | .mem (.zp _) => some 0xA4
    | .mem (.abs _) => some 0xAC
    | .mem (.zpx _) => some 0xB4
    | .mem (.absx _) => some 0xBC
    | .mem (.zpy _) | .mem (.absy _) | .mem (.izx _) | .mem (.izy _) => none
  | .sta m =>
    match m with
    | .izx _ => some 0x81
    | .zp _ => some 0x85
    | .abs _ => some 0x8D
    | .izy _ => some 0x91
    | .zpx _ => some 0x95
    | .absy _ => some 0x99
    | .absx _ => some 0x9D
    | .zpy _ => none
  | .stx m =>
    match m with
    | .zp _ => some 0x86
    | .abs _ => some 0x8E
    | .zpy _ => some 0x96
    | .zpx _ | .absx _ | .absy _ | .izx _ | .izy _ => none
  | .sty m =>
    match m with
    | .zp _ => some 0x84
    | .abs _ => some 0x8C
    | .zpx _ => some 0x94
    | .zpy _ | .absx _ | .absy _ | .izx _ | .izy _ => none
  | .tax => some 0xAA
  | .txa => some 0x8A
  | .tay => some 0xA8
  | .tya => some 0x98
  | .tsx => some 0xBA
  | .txs => some 0x9A
  | .pha => some 0x48
  | .pla => some 0x68
  | .php => some 0x08
  | .plp => some 0x28
  | .bpl _ => some 0x10
  | .bmi _ => some 0x30
  | .bvc _ => some 0x50
  | .bvs _ => some 0x70
  | .bcc _ => some 0x90
  | .bcs _ => some 0xB0
  | .bne _ => some 0xD0
  | .beq _ => some 0xF0
  | .brk => some 0x00
  | .rti => some 0x40
  | .jsr _ => some 0x20
  | .rts => some 0x60
  | .jmp (.abs _) => some 0x4C
  | .jmp (.ind _) => some 0x6C
  | .bit m =>
    match m with
    | .zp _ => some 0x24
    | .abs _ => some 0x2C
    | .zpx _ | .zpy _ | .absx _ | .absy _ | .izx _ | .izy _ => none
  | .clc => some 0x18
  | .sec => some 0x38
  | .cld => some 0xD8
  | .sed => some 0xF8
  | .cli => some 0x58
  | .sei => some 0x78
  | .clv => some 0xB8
  | .nop => some 0xEA
  | .illegal op => if illegalBytes.contains op then some op else none

/-- The operand bytes of a memory operand (R93). -/
def MemOperand.bytes : MemOperand → List Byte
  | .zp b | .zpx b | .zpy b | .izx b | .izy b => [b]
  | .abs w | .absx w | .absy w => [loByte w, hiByte w]

/-- The operand bytes of an instruction (R93, R94), low byte of a word first. -/
def Instr.operandBytes : Instr → List Byte
  | .ora o | .and o | .eor o | .adc o | .sbc o | .cmp o | .cpx o | .cpy o | .lda o | .ldx o | .ldy o =>
    match o with
    | .imm b => [b]
    | .mem m => m.bytes
  | .asl o | .lsr o | .rol o | .ror o =>
    match o with
    | .acc => []
    | .mem m => m.bytes
  | .inc m | .dec m | .sta m | .stx m | .sty m | .bit m => m.bytes
  | .bpl b | .bmi b | .bvc b | .bvs b | .bcc b | .bcs b | .bne b | .beq b => [b]
  | .jsr w | .jmp (.abs w) | .jmp (.ind w) => [loByte w, hiByte w]
  | .inx | .dex | .iny | .dey | .tax | .txa | .tay | .tya | .tsx | .txs | .pha | .pla | .php | .plp => []
  | .brk | .rti | .rts | .clc | .sec | .cld | .sed | .cli | .sei | .clv | .nop | .illegal _ => []

/-- How many bytes an instruction has (R113); BRK has one, the byte it skips is not its own (R94). -/
def Instr.length (i : Instr) : Nat := 1 + i.operandBytes.length

/-- The bytes of an instruction; a form without an opcode has none. -/
def encode (i : Instr) : List Byte :=
  match i.opcode with
  | some op => op :: i.operandBytes
  | none => []

end Sys2Proof
end

