-- ==== Sys2Proof/Machine/Loop.lean ====
section
/-! DEFINITION. The parts of the execution loop around an instruction (spec 30_encoding.md R90): the boundary checks, the
fetch, and what follows an instruction. -/

namespace Sys2Proof.Machine

/-- The checks at the top of the loop, in their order (R90; 60_exceptions.md R309): the stop flag, then the budget. -/
def State.atLoopExit (s : State) : Bool :=
  s.stopRequested || s.cfg.maxInstructions == some s.executed

/-- The loop exits (R90): `running <- false`. -/
def State.exitLoop (s : State) : State := { s with running := false }

/-- The bytes at PC and the two after it, modulo 65536 (R93, R29). The decoder takes as many as the opcode asks for; a read has
no side effect (20_memory.md R61), so looking at the others changes nothing. -/
def State.bytesAtPC (s : State) : List Byte :=
  [s.mem.read s.pc.toNat, s.mem.read (s.pc + 1).toNat, s.mem.read (s.pc + 2).toNat]

/-- The instruction that stands at PC (R90, R95). -/
def State.instrAtPC (s : State) : Instr :=
  decodeBytes (s.mem.read s.pc.toNat) (s.mem.read (s.pc + 1).toNat) (s.mem.read (s.pc + 2).toNat)

/-- The instruction a step runs: the one under way, or the one that stands at PC. -/
def State.currentInstr (s : State) : Instr :=
  match s.inFlight with
  | none => s.instrAtPC
  | some f => f.instr

/-- A report of a decode error (60_exceptions.md R300). -/
def Report.isDecodeError : Report → Bool
  | .illegalOpcode _ _ | .notImplemented _ _ => true
  | .instructionComplete _ _ _ => false

/-- The instruction that led from `s` to `t` raised IllegalOpcode or NotImplemented: it added such a report. -/
def decodeErrorRaised (s t : State) : Bool :=
  (t.reports.drop s.reports.length).any Report.isDecodeError

/-- What the loop does after the instruction that completed on the way from `s` to `t` (R90): report it, reset the cycle count,
count it, and leave the loop after a decode error under the strict policy (60_exceptions.md R303, R326, R327). -/
def State.completeInstruction (s t : State) : State :=
  let t' := (t.report (.instructionComplete s.opAddr s.op t.cycleCount)).resetCycleCount
  let t' := { t' with executed := t'.executed + 1 }
  if decodeErrorRaised s t && t.cfg.illegalPolicy == .strict then t'.exitLoop else t'

/-- The loop after `exec` answered `t`: an instruction that waits inside `enter_cycle` has not completed. -/
def State.afterExec (s t : State) : State :=
  match t.inFlight with
  | none => s.completeInstruction t
  | some _ => t

end Sys2Proof.Machine
end

