-- ==== Sys2Proof/Machine/Step.lean ====
section
/-! DEFINITION. One step of the machine: one iteration of the execution loop of spec 30_encoding.md R90, or the part of it
that the gate lets through, and the placing of an instruction for the host's questions. -/

namespace Sys2Proof.Machine

/-- One loop iteration, or as much of it as the gate lets through (log entry 8). Outside a run there is no move (log entry 7);
at the loop's exit, which a CPU inside an instruction does not see (60_exceptions.md R331), the step is that exit (log entry
11). -/
def step (s : State) : Host.Outcome State Fault Refusal :=
  if !s.running then .fault .notRunning
  else if s.inFlight.isNone && s.atLoopExit then .next s.exitLoop
  else
    match exec s.currentInstr s with
    | .next t => .next (s.afterExec t)
    | .fault r => .fault r
    | .refused r => .refused r

/-- The bytes `bs` stored from address `a` on. -/
def State.storeBytes (s : State) (a : Addr) : List Byte → State
  | [] => s
  | b :: bs => (s.memWrite a b).storeBytes (a + 1) bs

/-- The instruction with the table's bits `w` stored at PC, no other instruction under way, and the engine started by the host's
`start()` (60_exceptions.md R341): what it takes for the next step to run it (log entry 7). -/
def State.withFetchWord (s : State) (nbits w : Nat) : State :=
  { (s.storeBytes s.pc (tableBytes nbits w)).start with inFlight := none }

end Sys2Proof.Machine
end

