-- ==== Sys2Proof/Safety.lean ====
section
/-! DEFINITION. The terms claims are stated in: the tables the spec derives about whole instructions (gated cycles, registers,
flags and memory written), the invariant of the machine between steps, and a run without a decode error. -/

namespace Sys2Proof

open Machine

/-- The opcodes `ops`, with operand bytes `b` and `c`, decode to the instructions `forms` gives for the byte `b` and the word
`c : b`, in the same order (30_encoding.md R92, R93). -/
def OpcodesOf (ops : List Byte) (forms : Byte → Addr → List Instr) : Prop :=
  ∀ b c : Byte, (ops.map fun op => decodeBytes op b c) = forms b (word c b)

/-- The forms imm zp zpx abs absx absy izx izy, in the order of the Encoding lines. -/
def aluForms (b : Byte) (w : Addr) : List ReadOperand :=
  [.imm b, .mem (.zp b), .mem (.zpx b), .mem (.abs w), .mem (.absx w), .mem (.absy w), .mem (.izx b), .mem (.izy b)]

/-- The forms imm zp abs. -/
def plainForms (b : Byte) (w : Addr) : List ReadOperand := [.imm b, .mem (.zp b), .mem (.abs w)]

/-- The forms zp zpx abs absx. -/
def xIndexedForms (b : Byte) (w : Addr) : List MemOperand := [.zp b, .zpx b, .abs w, .absx w]

/-- The forms acc zp zpx abs absx. -/
def shiftForms (b : Byte) (w : Addr) : List ShiftOperand := .acc :: (xIndexedForms b w).map .mem

/-- The memory reads of a resolver (spec 30_encoding.md R113, its last column). -/
def MemOperand.resolverReads : MemOperand → Nat
  | .zp _ | .zpx _ | .zpy _ => 1
  | .abs _ | .absx _ | .absy _ => 2
  | .izx _ | .izy _ => 3

/-- The gated cycles of a reading instruction (70_reset_and_hazards.md R361). -/
def ReadOperand.cycles : ReadOperand → Nat
  | .imm _ => 2
  | .mem m => m.resolverReads + 2

/-- The gated cycles of a shift (R361). -/
def ShiftOperand.cycles : ShiftOperand → Nat
  | .acc => 1
  | .mem m => m.resolverReads + 3

/-- The gated cycles of an instruction: the table of R361, its rows in its order. -/
def Instr.cycles : Instr → Nat
  | .ora o | .and o | .eor o | .adc o | .sbc o | .cmp o | .cpx o | .cpy o | .lda o | .ldx o | .ldy o => o.cycles
  | .bit m => m.resolverReads + 2
  | .sta m | .stx m | .sty m => m.resolverReads + 2
  | .inc m | .dec m => m.resolverReads + 3
  | .asl o | .lsr o | .rol o | .ror o => o.cycles
  | .tax | .txa | .tay | .tya | .tsx | .txs | .inx | .dex | .iny | .dey => 1
  | .clc | .sec | .cld | .sed | .cli | .sei | .clv | .nop => 1
  | .pha | .php | .pla | .plp => 2
  | .bpl _ | .bmi _ | .bvc _ | .bvs _ | .bcc _ | .bcs _ | .bne _ | .beq _ => 2
  | .jmp (.abs _) => 3
  | .jmp (.ind _) => 5
  | .jsr _ => 5
  | .rts => 3
  | .rti => 4
  | .brk => 6
  | .illegal _ => 1

/-- The flags an instruction may write (10_state.md R38). -/
def Instr.flagsWritten : Instr → List Flag
  | .ora _ | .and _ | .eor _ | .inc _ | .dec _ | .inx | .dex | .iny | .dey => [.n, .z]
  | .lda _ | .ldx _ | .ldy _ | .tax | .txa | .tay | .tya | .tsx | .pla => [.n, .z]
  | .adc _ | .sbc _ => [.n, .v, .z, .c]
  | .cmp _ | .cpx _ | .cpy _ | .asl _ | .lsr _ | .rol _ | .ror _ => [.n, .z, .c]
  | .bit _ => [.n, .v, .z]
  | .plp | .rti => [.n, .v, .u, .b, .d, .i, .z, .c]
  | .brk => [.b, .i]
  | .clc | .sec => [.c]
  | .cld | .sed => [.d]
  | .cli | .sei => [.i]
  | .clv => [.v]
  | .sta _ | .stx _ | .sty _ | .txs | .pha | .php => []
  | .bpl _ | .bmi _ | .bvc _ | .bvs _ | .bcc _ | .bcs _ | .bne _ | .beq _ => []
  | .jsr _ | .rts | .jmp _ | .nop | .illegal _ => []

/-- The instruction may write A (10_state.md R21). -/
def Instr.writesA : Instr → Bool
  | .lda _ | .pla | .txa | .tya | .ora _ | .and _ | .eor _ | .adc _ | .sbc _ => true
  | .asl o | .lsr o | .rol o | .ror o =>
    match o with
    | .acc => true
    | .mem _ => false
  | .cmp _ | .cpx _ | .cpy _ | .inc _ | .dec _ | .inx | .dex | .iny | .dey | .ldx _ | .ldy _ | .sta _ | .stx _
  | .sty _ | .tax | .tay | .tsx | .txs | .pha | .php | .plp | .bpl _ | .bmi _ | .bvc _ | .bvs _ | .bcc _
  | .bcs _ | .bne _ | .beq _ | .brk | .rti | .jsr _ | .rts | .jmp _ | .bit _ | .clc | .sec | .cld | .sed | .cli
  | .sei | .clv | .nop | .illegal _ => false

/-- The instruction may write X (10_state.md R22). -/
def Instr.writesX : Instr → Bool
  | .ldx _ | .tax | .tsx | .inx | .dex => true
  | .ora _ | .and _ | .eor _ | .adc _ | .sbc _ | .cmp _ | .cpx _ | .cpy _ | .inc _ | .dec _ | .iny | .dey
  | .asl _ | .lsr _ | .rol _ | .ror _ | .lda _ | .ldy _ | .sta _ | .stx _ | .sty _ | .txa | .tay | .tya | .txs
  | .pha | .pla | .php | .plp | .bpl _ | .bmi _ | .bvc _ | .bvs _ | .bcc _ | .bcs _ | .bne _ | .beq _ | .brk
  | .rti | .jsr _ | .rts | .jmp _ | .bit _ | .clc | .sec | .cld | .sed | .cli | .sei | .clv | .nop | .illegal _ => false

/-- The instruction may write Y (10_state.md R23). -/
def Instr.writesY : Instr → Bool
  | .ldy _ | .tay | .iny | .dey => true
  | .ora _ | .and _ | .eor _ | .adc _ | .sbc _ | .cmp _ | .cpx _ | .cpy _ | .inc _ | .dec _ | .inx | .dex
  | .asl _ | .lsr _ | .rol _ | .ror _ | .lda _ | .ldx _ | .sta _ | .stx _ | .sty _ | .tax | .txa | .tya | .tsx
  | .txs | .pha | .pla | .php | .plp | .bpl _ | .bmi _ | .bvc _ | .bvs _ | .bcc _ | .bcs _ | .bne _ | .beq _
  | .brk | .rti | .jsr _ | .rts | .jmp _ | .bit _ | .clc | .sec | .cld | .sed | .cli | .sei | .clv | .nop
  | .illegal _ => false

/-- The instruction may write S: TXS and the stack instructions (43_load_store_transfer_stack.md R211 to R215,
44_branch_control.md R249 to R252). -/
def Instr.writesS : Instr → Bool
  | .txs | .pha | .pla | .php | .plp | .brk | .rti | .jsr _ | .rts => true
  | .ora _ | .and _ | .eor _ | .adc _ | .sbc _ | .cmp _ | .cpx _ | .cpy _ | .inc _ | .dec _ | .inx | .dex | .iny
  | .dey | .asl _ | .lsr _ | .rol _ | .ror _ | .lda _ | .ldx _ | .ldy _ | .sta _ | .stx _ | .sty _ | .tax | .txa
  | .tay | .tya | .tsx | .bpl _ | .bmi _ | .bvc _ | .bvs _ | .bcc _ | .bcs _ | .bne _ | .beq _ | .jmp _ | .bit _
  | .clc | .sec | .cld | .sed | .cli | .sei | .clv | .nop | .illegal _ => false

/-- The addresses an instruction that stands at PC stores a byte to, computed as its meaning computes them. -/
def Instr.storesAt (i : Instr) (s : State) : List Addr :=
  match i with
  | .sta m | .stx m | .sty m | .inc m | .dec m => [s.ea m]
  | .asl o | .lsr o | .rol o | .ror o =>
    match o with
    | .acc => []
    | .mem m => [s.ea m]
  | .pha | .php => [stackAddr s.sp]
  | .jsr _ => [stackAddr s.sp, stackAddr (s.sp - 1)]
  | .brk => [stackAddr s.sp, stackAddr (s.sp - 1), stackAddr (s.sp - 1 - 1)]
  | .ora _ | .and _ | .eor _ | .adc _ | .sbc _ | .cmp _ | .cpx _ | .cpy _ | .inx | .dex | .iny | .dey | .lda _
  | .ldx _ | .ldy _ | .tax | .txa | .tay | .tya | .tsx | .txs | .pla | .plp | .bpl _ | .bmi _ | .bvc _ | .bvs _
  | .bcc _ | .bcs _ | .bne _ | .beq _ | .rti | .rts | .jmp _ | .bit _ | .clc | .sec | .cld | .sed | .cli | .sei
  | .clv | .nop | .illegal _ => []

namespace Machine

/-- The value a flag of the status byte `old` has once the flags `ws` names have the values beside them. -/
def flagAfter (old : Byte) : List (Flag × Bool) → Flag → Bool
  | [], f => getFlag old f
  | (g, val) :: ws, f => if f = g then val else flagAfter old ws f

/-- The status byte `new` has the value `ws` gives each flag it names, and every other flag of `old`. -/
def FlagsBecome (old new : Byte) (ws : List (Flag × Bool)) : Prop := ∀ f : Flag, getFlag new f = flagAfter old ws f

/-- The CPU stands at an instruction's beginning, and the gate passes the next `n` gated cycles and leaves the gate as in `g`. -/
def State.passes (s : State) (n : Nat) (g : State) : Prop := s.inFlight = none ∧ s.gatedCycles n = (n, g)

/-- The machine after the instruction `i` of `s` as far as it only passes on: PC past its bytes (30_encoding.md R113), its gated
cycles counted (R361), and the gate's signals left as in `g`. -/
def State.past (s : State) (i : Instr) (g : State) : State :=
  { s.withGate g with pc := s.pc + BitVec.ofNat 16 i.length, cycleCount := s.cycleCount + i.cycles }

/-- The operand `v` of a shift that stands at PC (42_incdec_shift.md, section 3). -/
def State.shiftValue (s : State) : ShiftOperand → Byte
  | .acc => s.a
  | .mem m => s.mem.read (s.ea m).toNat

/-- `t` after a shift that stands at PC of `s` wrote `r` back (42_incdec_shift.md, section 3). -/
def State.writeBack (s : State) (o : ShiftOperand) (r : Byte) (t : State) : State :=
  match o with
  | .acc => { t with a := r }
  | .mem m => { t with mem := s.mem.write (s.ea m).toNat r }

/-- The budget is not passed (30_encoding.md R90). -/
def State.withinBudget (s : State) : Bool :=
  match s.cfg.maxInstructions with
  | none => true
  | some m => decide (s.executed ≤ m)

/-- The cycle count and the place in an instruction agree: 0 between instructions (60_exceptions.md R313). Inside one, the CPU
waits in a run behind a Handshake gate before a gated cycle that the instruction has, the passed cycles and the waiting one
are counted (R321), and the loop took the instruction up, so the budget is not spent. -/
def State.placeInv (s : State) : Bool :=
  match s.inFlight with
  | none => s.cycleCount == 0
  | some f =>
    s.running && s.cfg.gateMode == .handshake && decide (f.passed < f.instr.cycles) && s.cycleCount == f.passed + 1 &&
      s.cfg.maxInstructions != some s.executed

/-- What holds of the machine between steps: the memory is canonical; the count agrees with the CPU's place; `done` is not set
(a waiting driver wakes within the cycle, log entry 20), and `go` is set only while the driver is inside `start_cycle`
(60_exceptions.md R324, R325, R329); the budget is not passed. -/
def State.inv (s : State) : Bool :=
  s.mem.wf && s.placeInv && !s.done && (!s.go || s.driverWaiting) && s.withinBudget

/-- The Handshake gate at rest: no signal set, the driver outside `start_cycle`, the CPU outside `enter_cycle`
(60_exceptions.md R324). -/
def State.handshakeAtRest (s : State) : Bool :=
  s.cfg.gateMode == .handshake && !s.go && !s.done && !s.driverWaiting && s.inFlight.isNone

/-- The same machine with `calls` for the calls its driver will make by itself. -/
def State.withCalls (s : State) (calls : Option Nat) : State := { s with driverCalls := calls }

/-- The same machine with the cycle count `n`. -/
def State.withCount (s : State) (n : Nat) : State := { s with cycleCount := n }

/-- The same machine behind an AlwaysOpen gate. -/
def State.openGate (s : State) : State := { s with cfg := { s.cfg with gateMode := .alwaysOpen } }

/-- A clean run so far: no IllegalOpcode and no NotImplemented reported (60_exceptions.md R303;
93_implementation_defined.md K4). -/
def State.clean (s : State) : Bool := !s.reports.any Report.isDecodeError

end Machine

end Sys2Proof
end

