-- ==== Sys2Proof/Certificates/Slice0/Obligations.lean ====
section
/-! DEFINITION. The statements for the provers. An instruction's result is stated as the next state `exec` answers for every
operand form and every state at an instruction's beginning whose gate passes the instruction's cycles (`State.passes`; the
gate is left as in `g`): it is the machine moved on (`State.past`) with the named fields written, so it says what is left
unchanged as well. What holds of every next state holds of the states in which the CPU stands inside `enter_cycle` as well. -/

open Sys2Proof Sys2Proof.Machine

/-! ### Encoding -/

/-- Words written out from the Encoding lines of the rules decode to their instructions (R114; CSP §8 gives 05 2A). -/
def Obligations.WordsOfTheMapDecode : Prop :=
  decode [0x05, 0x2A] = .ok (.ora (.mem (.zp 0x2A)), []) ∧
  decode [0xA9, 0x80] = .ok (.lda (.imm 0x80), []) ∧
  decode [0x6E, 0x00, 0x30] = .ok (.ror (.mem (.abs 0x3000)), []) ∧
  decode [0x96, 0xFF] = .ok (.stx (.zpy 0xFF), []) ∧
  decode [0x6C, 0xFF, 0x0A] = .ok (.jmp (.ind 0x0AFF), []) ∧
  decode [0xD0, 0xFB] = .ok (.bne 0xFB, []) ∧
  decode [0x00, 0xEA] = .ok (.brk, [0xEA]) ∧
  decode [0x02, 0xEA] = .ok (.illegal 0x02, [0xEA]) ∧
  decode [0x6C, 0xFF] = .error .truncated

/-- Decoding the bytes of a well-formed instruction gives it back, with the bytes after it. -/
def Obligations.DecodeOfEncodeIsTheInstruction : Prop :=
  ∀ (i : Instr) (rest : List Byte), i.wellFormed = true → decode (encode i ++ rest) = .ok (i, rest)

/-- What decodes is well-formed, and its bytes are the bytes it was decoded from. -/
def Obligations.EncodeOfDecodeIsTheBytes : Prop :=
  ∀ (bytes rest : List Byte) (i : Instr), decode bytes = .ok (i, rest) → i.wellFormed = true ∧ bytes = encode i ++ rest

/-- The bytes that decode as illegal are the 105 listed ones, whatever bytes follow (R115). -/
def Obligations.IllegalBytesAreTheListedOnes : Prop :=
  illegalBytes.length = 105 ∧ illegalBytes.Nodup ∧
    ∀ op b1 b2 : Byte, decodeBytes op b1 b2 = .illegal op ↔ op ∈ illegalBytes

/-! ### Addressing modes -/

/-- The effective address of every memory mode (R103 to R108, R110, R111); the resolver takes PC past the mode's operand bytes in
as many gated cycles as it reads bytes (R113). -/
def Obligations.MemoryModesGiveTheAddress : Prop :=
  ∀ (s : State) (m : MemOperand),
    s.ea m = (match m with
      | .zp b => BitVec.ofNat 16 b.toNat
      | .zpx b => BitVec.ofNat 16 ((b.toNat + s.x.toNat) % 256)
      | .zpy b => BitVec.ofNat 16 ((b.toNat + s.y.toNat) % 256)
      | .abs w => w
      | .absx w => BitVec.ofNat 16 ((w.toNat + s.x.toNat) % 65536)
      | .absy w => BitVec.ofNat 16 ((w.toNat + s.y.toNat) % 65536)
      | .izx b => word (s.mem.read ((b.toNat + s.x.toNat + 1) % 256)) (s.mem.read ((b.toNat + s.x.toNat) % 256))
      | .izy b =>
        BitVec.ofNat 16 (((word (s.mem.read ((b.toNat + 1) % 256)) (s.mem.read b.toNat)).toNat + s.y.toNat) % 65536)) ∧
    s.runCycles (resolverCycles m) = { s with pc := s.pc + BitVec.ofNat 16 m.bytes.length } ∧
    (resolverCycles m).length = m.resolverReads

/-- The relative mode: a signed offset from the address after the operand (R112), for a branch that is taken and one that is
not; two gated cycles, and nothing but PC changes. -/
def Obligations.RelativeModeCountsFromTheNextInstruction : Prop :=
  ∀ (s : State) (b : Byte) (taken : Bool), ∃ target : Addr,
    s.runCycles (branchCycles b fun _ => taken) = { s with pc := target } ∧ (branchCycles b fun _ => taken).length = 2 ∧
    (target.toNat : Int) = ((s.pc.toNat : Int) + 2 + if taken then b.toInt else 0) % 65536

/-- The operand of a reading instruction that stands at PC: in immediate mode the byte at PC + 1 (R102), in a memory mode the byte
at the effective address (R141). -/
def Obligations.OperandIsTheByteTheModeGives : Prop :=
  (∀ (s : State) (b : Byte),
    s.instrAtPC ∈ [Instr.ora (.imm b), .and (.imm b), .eor (.imm b), .adc (.imm b), .sbc (.imm b), .cmp (.imm b), .cpx (.imm b),
      .cpy (.imm b), .lda (.imm b), .ldx (.imm b), .ldy (.imm b)] →
    s.operand (.imm b) = s.mem.read (s.pc + 1).toNat) ∧
  ∀ (s : State) (m : MemOperand), s.operand (.mem m) = s.mem.read (s.ea m).toNat

/-! ### Logical, arithmetic, compare, BIT -/

/-- ORA, AND, EOR: their opcodes; A, Z and N (R143 to R145). -/
def Obligations.LogicalInstructionsWriteAZN : Prop :=
  OpcodesOf [0x09, 0x05, 0x15, 0x0D, 0x1D, 0x19, 0x01, 0x11] (fun b w => (aluForms b w).map .ora) ∧
  OpcodesOf [0x29, 0x25, 0x35, 0x2D, 0x3D, 0x39, 0x21, 0x31] (fun b w => (aluForms b w).map .and) ∧
  OpcodesOf [0x49, 0x45, 0x55, 0x4D, 0x5D, 0x59, 0x41, 0x51] (fun b w => (aluForms b w).map .eor) ∧
  ∀ (o : ReadOperand) (s g : State) (i : Instr) (r : Byte), s.passes o.cycles g →
    (i, r) ∈ [(Instr.ora o, s.a ||| s.operand o), (.and o, s.a &&& s.operand o), (.eor o, s.a ^^^ s.operand o)] →
    ∃ p', FlagsBecome s.p p' [(.z, r == 0), (.n, r.getLsbD 7)] ∧
      exec i s = .next { s.past i g with a := r, p := p' }

/-- ADC: its opcodes; A plus memory plus carry in binary, carry out, and V when bit 7 of A changes (R146). -/
def Obligations.AdcAddsMemoryAndCarry : Prop :=
  OpcodesOf [0x69, 0x65, 0x75, 0x6D, 0x7D, 0x79, 0x61, 0x71] (fun b w => (aluForms b w).map .adc) ∧
  ∀ (o : ReadOperand) (s g : State), s.passes o.cycles g →
    let sum := s.a.toNat + (s.operand o).toNat + (getFlag s.p .c).toNat
    let r := BitVec.ofNat 8 (sum % 256)
    ∃ p', FlagsBecome s.p p'
        [(.c, decide (sum > 0xFF)), (.v, s.a.getLsbD 7 != r.getLsbD 7), (.z, r == 0), (.n, r.getLsbD 7)] ∧
      exec (.adc o) s = .next { s.past (.adc o) g with a := r, p := p' }

/-- SBC: its opcodes; A minus memory with no borrow-in, C on borrow, V when bit 7 of A changes (R147). -/
def Obligations.SbcSubtractsWithoutBorrowIn : Prop :=
  OpcodesOf [0xE9, 0xE5, 0xF5, 0xED, 0xFD, 0xF9, 0xE1, 0xF1] (fun b w => (aluForms b w).map .sbc) ∧
  ∀ (o : ReadOperand) (s g : State), s.passes o.cycles g →
    let r := s.a - s.operand o
    ∃ p', FlagsBecome s.p p'
        [(.c, decide (s.a.toNat < (s.operand o).toNat)), (.v, s.a.getLsbD 7 != r.getLsbD 7), (.z, r == 0),
          (.n, r.getLsbD 7)] ∧
      exec (.sbc o) s = .next { s.past (.sbc o) g with a := r, p := p' }

/-- CMP, CPX, CPY: their opcodes; C on unsigned borrow, Z and N from the register (R148 to R150). -/
def Obligations.ComparesTakeZNFromTheRegister : Prop :=
  OpcodesOf [0xC9, 0xC5, 0xD5, 0xCD, 0xDD, 0xD9, 0xC1, 0xD1] (fun b w => (aluForms b w).map .cmp) ∧
  OpcodesOf [0xE0, 0xE4, 0xEC] (fun b w => (plainForms b w).map .cpx) ∧
  OpcodesOf [0xC0, 0xC4, 0xCC] (fun b w => (plainForms b w).map .cpy) ∧
  ∀ (o : ReadOperand) (s g : State) (i : Instr) (reg : Byte), s.passes o.cycles g →
    (i, reg) ∈ [(Instr.cmp o, s.a), (.cpx o, s.x), (.cpy o, s.y)] →
    ∃ p', FlagsBecome s.p p'
        [(.c, decide (reg.toNat < (s.operand o).toNat)), (.z, reg == 0), (.n, reg.getLsbD 7)] ∧
      exec i s = .next { s.past i g with p := p' }

/-- BIT: its opcodes, N and V from memory, Z from A and memory (R254). -/
def Obligations.BitTestsMemoryAgainstA : Prop :=
  OpcodesOf [0x24, 0x2C] (fun b w => [.bit (.zp b), .bit (.abs w)]) ∧
  ∀ (m : MemOperand) (s g : State), s.passes (Instr.bit m).cycles g →
    let v := s.mem.read (s.ea m).toNat
    ∃ p', FlagsBecome s.p p' [(.n, v.getLsbD 7), (.v, v.getLsbD 6), (.z, s.a &&& v == 0)] ∧
      exec (.bit m) s = .next { s.past (.bit m) g with p := p' }

/-! ### Increment, decrement, shift -/

/-- INC and DEC: their opcodes; the byte at the effective address, Z and N (R171, R172). -/
def Obligations.IncDecMemoryWriteOneByte : Prop :=
  OpcodesOf [0xE6, 0xF6, 0xEE, 0xFE] (fun b w => (xIndexedForms b w).map .inc) ∧
  OpcodesOf [0xC6, 0xD6, 0xCE, 0xDE] (fun b w => (xIndexedForms b w).map .dec) ∧
  ∀ (m : MemOperand) (s g : State) (i : Instr) (r : Byte), s.passes (m.resolverReads + 3) g →
    (i, r) ∈ [(Instr.inc m, s.mem.read (s.ea m).toNat + 1), (.dec m, s.mem.read (s.ea m).toNat - 1)] →
    ∃ p', FlagsBecome s.p p' [(.z, r == 0), (.n, r.getLsbD 7)] ∧
      exec i s = .next { s.past i g with mem := s.mem.write (s.ea m).toNat r, p := p' }

/-- INX, DEX, INY, DEY: their opcodes and effects (R173 to R176). -/
def Obligations.IncDecRegistersWrap : Prop :=
  OpcodesOf [0xE8, 0xCA, 0xC8, 0x88] (fun _ _ => [.inx, .dex, .iny, .dey]) ∧
  ∀ s g : State, s.passes 1 g →
    (∀ (i : Instr) (r : Byte), (i, r) ∈ [(Instr.inx, s.x + 1), (.dex, s.x - 1)] →
      ∃ p', FlagsBecome s.p p' [(.z, r == 0), (.n, r.getLsbD 7)] ∧ exec i s = .next { s.past i g with x := r, p := p' }) ∧
    (∀ (i : Instr) (r : Byte), (i, r) ∈ [(Instr.iny, s.y + 1), (.dey, s.y - 1)] →
      ∃ p', FlagsBecome s.p p' [(.z, r == 0), (.n, r.getLsbD 7)] ∧ exec i s = .next { s.past i g with y := r, p := p' })

/-- ASL and ROL: their opcodes; bit 7 goes to C; 0 or the old C comes in (R177, R179). -/
def Obligations.LeftShiftsMoveBitSevenToCarry : Prop :=
  OpcodesOf [0x0A, 0x06, 0x16, 0x0E, 0x1E] (fun b w => (shiftForms b w).map .asl) ∧
  OpcodesOf [0x2A, 0x26, 0x36, 0x2E, 0x3E] (fun b w => (shiftForms b w).map .rol) ∧
  ∀ (o : ShiftOperand) (s g : State) (i : Instr) (cin : Bool), s.passes o.cycles g →
    (i, cin) ∈ [(Instr.asl o, false), (.rol o, getFlag s.p .c)] →
    let v := s.shiftValue o
    let r := BitVec.ofNat 8 ((2 * v.toNat + cin.toNat) % 256)
    ∃ p', FlagsBecome s.p p' [(.c, v.getLsbD 7), (.z, r == 0), (.n, r.getLsbD 7)] ∧
      exec i s = .next (s.writeBack o r { s.past i g with p := p' })

/-- LSR and ROR: their opcodes; bit 0 goes to C; 0 or the old C comes in at bit 7; N becomes 0 (R178, R180). -/
def Obligations.RightShiftsClearN : Prop :=
  OpcodesOf [0x4A, 0x46, 0x56, 0x4E, 0x5E] (fun b w => (shiftForms b w).map .lsr) ∧
  OpcodesOf [0x6A, 0x66, 0x76, 0x6E, 0x7E] (fun b w => (shiftForms b w).map .ror) ∧
  ∀ (o : ShiftOperand) (s g : State) (i : Instr) (cin : Bool), s.passes o.cycles g →
    (i, cin) ∈ [(Instr.lsr o, false), (.ror o, getFlag s.p .c)] →
    let v := s.shiftValue o
    let r := BitVec.ofNat 8 (v.toNat / 2 + 128 * cin.toNat)
    ∃ p', FlagsBecome s.p p' [(.c, v.getLsbD 0), (.z, r == 0), (.n, false)] ∧
      exec i s = .next (s.writeBack o r { s.past i g with p := p' })

/-! ### Loads, stores, transfers, stack -/

/-- LDA, LDX, LDY: their opcodes and effects (R200 to R202). -/
def Obligations.LoadsWriteTheirRegisterZN : Prop :=
  OpcodesOf [0xA9, 0xA5, 0xB5, 0xAD, 0xBD, 0xB9, 0xA1, 0xB1] (fun b w => (aluForms b w).map .lda) ∧
  OpcodesOf [0xA2, 0xA6, 0xB6, 0xAE, 0xBE]
    (fun b w => [.ldx (.imm b), .ldx (.mem (.zp b)), .ldx (.mem (.zpy b)), .ldx (.mem (.abs w)), .ldx (.mem (.absy w))]) ∧
  OpcodesOf [0xA0, 0xA4, 0xB4, 0xAC, 0xBC] (fun b w => (.imm b :: (xIndexedForms b w).map ReadOperand.mem).map .ldy) ∧
  ∀ (o : ReadOperand) (s g : State), s.passes o.cycles g →
    ∃ p', FlagsBecome s.p p' [(.z, s.operand o == 0), (.n, (s.operand o).getLsbD 7)] ∧
      exec (.lda o) s = .next { s.past (.lda o) g with a := s.operand o, p := p' } ∧
      exec (.ldx o) s = .next { s.past (.ldx o) g with x := s.operand o, p := p' } ∧
      exec (.ldy o) s = .next { s.past (.ldy o) g with y := s.operand o, p := p' }

/-- STA, STX, STY: their opcodes and effects; STA has no immediate form (R203 to R205). -/
def Obligations.StoresWriteTheirRegisterOnly : Prop :=
  OpcodesOf [0x85, 0x95, 0x8D, 0x9D, 0x99, 0x81, 0x91, 0x89]
    (fun b w => [.sta (.zp b), .sta (.zpx b), .sta (.abs w), .sta (.absx w), .sta (.absy w), .sta (.izx b), .sta (.izy b),
      .illegal 0x89]) ∧
  OpcodesOf [0x86, 0x96, 0x8E] (fun b w => [.stx (.zp b), .stx (.zpy b), .stx (.abs w)]) ∧
  OpcodesOf [0x84, 0x94, 0x8C] (fun b w => [.sty (.zp b), .sty (.zpx b), .sty (.abs w)]) ∧
  ∀ (m : MemOperand) (s g : State), s.passes (m.resolverReads + 2) g →
    exec (.sta m) s = .next { s.past (.sta m) g with mem := s.mem.write (s.ea m).toNat s.a } ∧
    exec (.stx m) s = .next { s.past (.stx m) g with mem := s.mem.write (s.ea m).toNat s.x } ∧
    exec (.sty m) s = .next { s.past (.sty m) g with mem := s.mem.write (s.ea m).toNat s.y }

/-- TAX, TXA, TAY, TYA, TSX with Z and N; TXS with no flag; and their opcodes (R206 to R211). -/
def Obligations.TransfersCopyOneRegister : Prop :=
  OpcodesOf [0xAA, 0x8A, 0xA8, 0x98, 0xBA, 0x9A] (fun _ _ => [.tax, .txa, .tay, .tya, .tsx, .txs]) ∧
  ∀ s g : State, s.passes 1 g →
    (∃ p', FlagsBecome s.p p' [(.z, s.a == 0), (.n, s.a.getLsbD 7)] ∧
      exec .tax s = .next { s.past .tax g with x := s.a, p := p' } ∧
      exec .tay s = .next { s.past .tay g with y := s.a, p := p' }) ∧
    (∃ p', FlagsBecome s.p p' [(.z, s.x == 0), (.n, s.x.getLsbD 7)] ∧
      exec .txa s = .next { s.past .txa g with a := s.x, p := p' }) ∧
    (∃ p', FlagsBecome s.p p' [(.z, s.y == 0), (.n, s.y.getLsbD 7)] ∧
      exec .tya s = .next { s.past .tya g with a := s.y, p := p' }) ∧
    (∃ p', FlagsBecome s.p p' [(.z, s.sp == 0), (.n, s.sp.getLsbD 7)] ∧
      exec .tsx s = .next { s.past .tsx g with x := s.sp, p := p' }) ∧
    exec .txs s = .next { s.past .txs g with sp := s.x }

/-- PHA and PHP: their opcodes; the byte at 0x0100 + S, then S - 1; P as stored (R212, R214). -/
def Obligations.PushesWriteBelowTheStackTop : Prop :=
  OpcodesOf [0x48, 0x08] (fun _ _ => [.pha, .php]) ∧
  ∀ s g : State, s.passes 2 g →
    exec .pha s = .next { s.past .pha g with mem := s.mem.write (0x100 + s.sp.toNat) s.a, sp := s.sp - 1 } ∧
    exec .php s = .next { s.past .php g with mem := s.mem.write (0x100 + s.sp.toNat) s.p, sp := s.sp - 1 }

/-- PLA and PLP: their opcodes; S + 1, then the byte at 0x0100 + S; PLP loads all eight bits (R213, R215). -/
def Obligations.PullsReadAboveTheStackTop : Prop :=
  OpcodesOf [0x68, 0x28] (fun _ _ => [.pla, .plp]) ∧
  ∀ s g : State, s.passes 2 g →
    let v := s.mem.read (0x100 + (s.sp + 1).toNat)
    (∃ p', FlagsBecome s.p p' [(.z, v == 0), (.n, v.getLsbD 7)] ∧
      exec .pla s = .next { s.past .pla g with a := v, sp := s.sp + 1, p := p' }) ∧
    exec .plp s = .next { s.past .plp g with p := v, sp := s.sp + 1 }

/-- A push and the pull after it, both completed, with no other write to the byte between them, give back A and S (R68; CSP
§8). -/
def Obligations.PlaAfterPhaRestoresAAndS : Prop :=
  ∀ s t u v : State, s.inFlight = none → exec .pha s = .next t → t.inFlight = none →
    u.inFlight = none → u.sp = t.sp → u.mem.read (stackAddr s.sp).toNat = t.mem.read (stackAddr s.sp).toNat →
    exec .pla u = .next v → v.inFlight = none → v.a = s.a ∧ v.sp = s.sp

/-! ### Branch and control -/

/-- The eight branches: their opcodes; PC becomes op_addr + 2 plus the signed offset when the condition holds, else
op_addr + 2; nothing else changes (R240 to R248). -/
def Obligations.BranchesWritePCOnly : Prop :=
  OpcodesOf [0x10, 0x30, 0x50, 0x70, 0x90, 0xB0, 0xD0, 0xF0]
    (fun b _ => [.bpl b, .bmi b, .bvc b, .bvs b, .bcc b, .bcs b, .bne b, .beq b]) ∧
  ∀ (b : Byte) (s g : State) (i : Instr) (taken : Bool), s.passes 2 g →
    (i, taken) ∈ [(Instr.bpl b, !getFlag s.p .n), (.bmi b, getFlag s.p .n), (.bvc b, !getFlag s.p .v), (.bvs b, getFlag s.p .v),
      (.bcc b, !getFlag s.p .c), (.bcs b, getFlag s.p .c), (.bne b, !getFlag s.p .z), (.beq b, getFlag s.p .z)] →
    exec i s = .next { s.past i g with pc := if taken then s.pc + 2 + BitVec.ofInt 16 b.toInt else s.pc + 2 }

/-- BRK: its opcode; B and I set, then the return address op_addr + 2 and that P pushed, PC from the IRQ vector (R249). -/
def Obligations.BrkTakesTheTrap : Prop :=
  OpcodesOf [0x00] (fun _ _ => [.brk]) ∧
  ∀ s g : State, s.passes 6 g →
    ∃ p', FlagsBecome s.p p' [(.b, true), (.i, true)] ∧
      exec .brk s = .next { s.past .brk g with
        p := p'
        mem := ((s.mem.write (0x100 + s.sp.toNat) (hiByte (s.pc + 2))).write (0x100 + (s.sp - 1).toNat)
          (loByte (s.pc + 2))).write (0x100 + (s.sp - 2).toNat) p'
        sp := s.sp - 3
        pc := word (s.mem.read 0xFFFF) (s.mem.read 0xFFFE) }

/-- RTI: its opcode; P, then PC low, then PC high from the stack; no increment (R250). -/
def Obligations.RtiRestoresPAndPC : Prop :=
  OpcodesOf [0x40] (fun _ _ => [.rti]) ∧
  ∀ s g : State, s.passes 4 g →
    exec .rti s = .next { s.past .rti g with
      p := s.mem.read (0x100 + (s.sp + 1).toNat)
      sp := s.sp + 3
      pc := word (s.mem.read (0x100 + (s.sp + 3).toNat)) (s.mem.read (0x100 + (s.sp + 2).toNat)) }

/-- After a completed BRK at op_addr, a completed RTI with S and the three stack bytes as BRK left them returns to op_addr + 2
with P as pushed (R249, R250, R310). -/
def Obligations.RtiReturnsFromBrk : Prop :=
  ∀ s t u v : State, s.inFlight = none → exec .brk s = .next t → t.inFlight = none → u.inFlight = none → u.sp = t.sp →
    (∀ k ∈ [s.sp, s.sp - 1, s.sp - 2], u.mem.read (stackAddr k).toNat = t.mem.read (stackAddr k).toNat) →
    exec .rti u = .next v → v.inFlight = none →
    v.pc = s.pc + 2 ∧ v.p = t.p ∧ v.sp = s.sp ∧ getFlag v.p .b = true ∧ getFlag v.p .i = true

/-- JSR: its opcode; op_addr + 2 pushed, high byte first, PC the operand word (R251). -/
def Obligations.JsrPushesTheReturnAddress : Prop :=
  OpcodesOf [0x20] (fun _ w => [.jsr w]) ∧
  ∀ (w : Addr) (s g : State), s.passes 5 g →
    exec (.jsr w) s = .next { s.past (.jsr w) g with
      mem := (s.mem.write (0x100 + s.sp.toNat) (hiByte (s.pc + 2))).write (0x100 + (s.sp - 1).toNat) (loByte (s.pc + 2))
      sp := s.sp - 2
      pc := w }

/-- RTS: its opcode; the pulled word plus one (R252). -/
def Obligations.RtsPullsAndIncrements : Prop :=
  OpcodesOf [0x60] (fun _ _ => [.rts]) ∧
  ∀ s g : State, s.passes 3 g →
    exec .rts s = .next { s.past .rts g with
      sp := s.sp + 2
      pc := word (s.mem.read (0x100 + (s.sp + 2).toNat)) (s.mem.read (0x100 + (s.sp + 1).toNat)) + 1 }

/-- A completed RTS with S and the two stack bytes as a completed JSR left them goes on after the JSR (R251, R252). -/
def Obligations.RtsReturnsFromJsr : Prop :=
  ∀ (w : Addr) (s t u v : State),
    s.inFlight = none → exec (.jsr w) s = .next t → t.inFlight = none → u.inFlight = none → u.sp = t.sp →
    (∀ k ∈ [s.sp, s.sp - 1], u.mem.read (stackAddr k).toNat = t.mem.read (stackAddr k).toNat) →
    exec .rts u = .next v → v.inFlight = none →
    v.pc = s.pc + 3 ∧ v.sp = s.sp

/-- JMP: its opcodes; the operand word, or the word at it with no page wrap (R253, R109). -/
def Obligations.JmpGoesToTheTarget : Prop :=
  OpcodesOf [0x4C, 0x6C] (fun _ w => [.jmp (.abs w), .jmp (.ind w)]) ∧
  ∀ (w : Addr) (s g : State),
    (s.passes 3 g → exec (.jmp (.abs w)) s = .next { s.past (.jmp (.abs w)) g with pc := w }) ∧
    (s.passes 5 g → exec (.jmp (.ind w)) s = .next { s.past (.jmp (.ind w)) g with
      pc := word (s.mem.read ((w.toNat + 1) % 65536)) (s.mem.read w.toNat) })

/-- CLC SEC CLD SED CLI SEI CLV NOP: their opcodes; each but NOP writes its one bit whatever it was (R256 to R263). -/
def Obligations.FlagInstructionsWriteOneBit : Prop :=
  OpcodesOf [0x18, 0x38, 0xD8, 0xF8, 0x58, 0x78, 0xB8, 0xEA] (fun _ _ => [.clc, .sec, .cld, .sed, .cli, .sei, .clv, .nop]) ∧
  ∀ (s g : State), s.passes 1 g →
    (∀ (i : Instr) (f : Flag) (val : Bool),
      (i, f, val) ∈ [(Instr.clc, Flag.c, false), (.sec, .c, true), (.cld, .d, false), (.sed, .d, true), (.cli, .i, false),
        (.sei, .i, true), (.clv, .v, false)] →
      ∃ p', FlagsBecome s.p p' [(f, val)] ∧ exec i s = .next { s.past i g with p := p' }) ∧
    exec .nop s = .next (s.past .nop g)

/-- An illegal opcode byte: a report, the opcode fetch, nothing else (R115, R301). -/
def Obligations.IllegalOpcodeReportsOnly : Prop :=
  ∀ (op : Byte) (s g : State), s.passes 1 g →
    exec (.illegal op) s = .next { s.past (.illegal op) g with reports := s.reports ++ [.illegalOpcode op s.pc] }

/-! ### What holds of every instruction -/

/-- A flag that 10_state.md R38 does not name for an instruction keeps its value. -/
def Obligations.OnlyTheNamedFlagsChange : Prop :=
  ∀ (i : Instr) (s t : State) (f : Flag), exec i s = .next t → f ∉ i.flagsWritten → getFlag t.p f = getFlag s.p f

/-- A, X, Y and S change only by the instructions that write them (R21 to R23, R211 to R215, R249 to R252). -/
def Obligations.OnlyTheNamedRegistersChange : Prop :=
  ∀ (i : Instr) (s t : State), exec i s = .next t →
    (i.writesA = false → t.a = s.a) ∧ (i.writesX = false → t.x = s.x) ∧ (i.writesY = false → t.y = s.y) ∧
    (i.writesS = false → t.sp = s.sp)

/-- Every byte outside the stored ones reads as before. -/
def Obligations.OnlyTheStoredBytesChange : Prop :=
  ∀ (i : Instr) (s t : State) (k : Nat), exec i s = .next t → (∀ a ∈ i.storesAt s, k ≠ a.toNat) → t.mem.read k = s.mem.read k

/-- A push reaches page 1 only (R69): whatever next state PHA, PHP, BRK or JSR answers, every byte outside 0x0100 to 0x01FF
reads as before. And it reaches it: once the instruction, taken up at its beginning, is complete, the byte at 0x0100 + S is
the one pushed first: A, P, or the high byte of op_addr + 2 (R212, R214, R249, R251). -/
def Obligations.PushesStayInPageOne : Prop :=
  ∀ (i : Instr) (s t : State) (first : Byte), exec i s = .next t →
    ((i, first) ∈ [(Instr.pha, s.a), (.php, s.p), (.brk, hiByte (s.pc + 2))] ∨
      ∃ w, (i, first) = (Instr.jsr w, hiByte (s.pc + 2))) →
    (∀ k : Nat, (k < 0x0100 ∨ 0x01FF < k) → t.mem.read k = s.mem.read k) ∧
    (s.inFlight = none → t.inFlight = none → t.mem.read (stackAddr s.sp).toNat = first)

/-- No instruction touches the loop's state or the parameters, and the only report one makes is an illegal byte's (R40). -/
def Obligations.InstructionsLeaveTheLoopStateAlone : Prop :=
  ∀ (i : Instr) (s t : State), exec i s = .next t →
    t.stopRequested = s.stopRequested ∧ t.running = s.running ∧ t.executed = s.executed ∧ t.cfg = s.cfg ∧
    ((∀ op, i ≠ .illegal op) → t.reports = s.reports)

/-- From an instruction's beginning: once it is complete, the count has grown by the table's number, which is at most 6 (R361,
R328, R313); while the CPU waits in one of its cycles, by those passed and the one it waits in (R321). -/
def Obligations.GatedCyclesAreTheTables : Prop :=
  (∀ (i : Instr) (s t : State), s.inFlight = none → exec i s = .next t →
    (t.inFlight = none → t.cycleCount = s.cycleCount + i.cycles) ∧
    (∀ f, t.inFlight = some f → t.cycleCount = s.cycleCount + f.passed + 1 ∧ f.passed < i.cycles)) ∧
  ∀ i : Instr, i.cycles ≤ 6

/-- U, B, D and I influence nothing but their own bit, save through PHP and BRK, which push P (R34 to R37, R142): two completed
runs of an instruction that differ in one of these flags end alike but for that flag. -/
def Obligations.UnreadFlagsInfluenceNothing : Prop :=
  ∀ (i : Instr) (s t : State) (f : Flag) (val : Bool), f ∈ [Flag.u, .b, .d, .i] → i ≠ .php → i ≠ .brk → exec i s = .next t →
    t.inFlight = none →
    ∃ t', exec i (s.setFlag f val) = .next t' ∧ t'.setFlag f false = t.setFlag f false

/-! ### The gate -/

/-- AlwaysOpen (R321, R323): `enter_cycle` counts and returns, `exit_cycle` and `start_cycle` do nothing, and no number of gated
cycles blocks. -/
def Obligations.AlwaysOpenPassesEveryCycle : Prop :=
  ∀ s : State, s.cfg.gateMode = .alwaysOpen → s.inFlight = none →
    s.enterBegin.enterEnd = some { s with cycleCount := s.cycleCount + 1 } ∧ s.exitCycle = s ∧ s.startCycle = s ∧
    s.driverBegin = s ∧ s.driverEnd = s ∧ ∀ n : Nat, s.passes n { s with cycleCount := s.cycleCount + n }

/-- Handshake from rest: each `start_cycle` lets one gated cycle run, and the signals are consumed (R324, R325, R329). That
the driver has a number of calls it makes by itself (`driverCalls`) is the model's choice (log entry 5), and so is that it
wakes from `wait(done)` within the cycle (log entry 20). -/
def Obligations.HandshakePassesOneCycleACall : Prop :=
  ∀ (s : State) (n : Nat), s.handshakeAtRest = true → (∀ k, s.driverCalls = some k → n ≤ k) →
    s.passes n { s with cycleCount := s.cycleCount + n, driverCalls := s.driverCalls.map (· - n) }

/-- A driver that stops calling leaves the CPU standing in `enter_cycle` (R331): `k` calls pass `k` cycles, the waiting one is
counted (R321) and recorded, and the instruction has no further step. The record and the calls are the model's own fields (log
entries 19 and 5), and the fault is the model's form of having no step (log entry 6); that `done` is clear there is the
model's choice of when the driver wakes (log entry 20). -/
def Obligations.StallWhenTheDriverStops : Prop :=
  ∀ (i : Instr) (s : State) (k : Nat), s.handshakeAtRest = true → s.driverCalls = some k → k < i.cycles →
    ∃ t, exec i s = .next t ∧
      t.inFlight = some { instr := i, opAddr := s.pc, op := s.mem.read s.pc.toNat, p := s.p, passed := k } ∧
      t.cycleCount = s.cycleCount + k + 1 ∧ t.driverCalls = some 0 ∧ t.go = false ∧ t.done = false ∧ t.driverWaiting = false ∧
      exec i t = .fault .gateStall

/-- A stalled CPU goes on where it stands (R334, R330): `k` calls, then a stall, then `calls` more (`none`: no end) lead
exactly where `k` and `calls` calls in a row would have led. -/
def Obligations.StalledCpuResumesWhereItStands : Prop :=
  ∀ (i : Instr) (s t : State) (k : Nat) (calls : Option Nat), s.handshakeAtRest = true → k < i.cycles → calls ≠ some 0 →
    exec i (s.withCalls (some k)) = .next t →
    exec i (t.withCalls calls) = exec i (s.withCalls (calls.map (k + ·)))

/-- The gate never changes what an instruction computes (R330): what completes behind any gate, taken up at its beginning or where
the CPU stands, completes behind an AlwaysOpen one, with the same state but for the signals and the driver's place. -/
def Obligations.TheGateNeverChangesTheResult : Prop :=
  ∀ (i : Instr) (s t : State), exec i s = .next t → t.inFlight = none →
    exec i s.openGate = .next ((t.openGate.withGate s).withCount t.cycleCount)

/-! ### Memory, stack, flags -/

/-- A byte written reads back, and every other byte is left (R61). -/
def Obligations.MemWriteThenMemRead : Prop :=
  ∀ (s : State) (a b : Addr) (v : Byte),
    (s.memWrite a v).memRead b = if b = a then v else s.memRead b

/-- Push and Pull (R67, R68): the byte at 0x0100 + S, S by one modulo 256, nothing else; and a Pull after a Push with no write
to the byte between them gives back the byte and S. -/
def Obligations.PushAndPullMoveTheStackTop : Prop :=
  ∀ (s : State) (v : Byte),
    s.push v = { s with mem := s.mem.write (0x100 + s.sp.toNat) v, sp := BitVec.ofNat 8 ((s.sp.toNat + 255) % 256) } ∧
    s.pull = (s.mem.read (0x100 + (s.sp.toNat + 1) % 256), { s with sp := BitVec.ofNat 8 ((s.sp.toNat + 1) % 256) }) ∧
    ∀ t : State, t.sp = (s.push v).sp → t.mem.read (0x100 + s.sp.toNat) = (s.push v).mem.read (0x100 + s.sp.toNat) →
      t.pull.1 = v ∧ t.pull.2.sp = s.sp

/-- Words are little-endian; WordAt carries into the next page and wraps at 0xFFFF, WordAtZP wraps in the zero page
(R63, R64). -/
def Obligations.WordReadsAreLittleEndian : Prop :=
  ∀ (s : State) (a : Addr) (z : Byte),
    (s.mem.wordAt a).toNat = 256 * (s.mem.read ((a.toNat + 1) % 65536)).toNat + (s.mem.read a.toNat).toNat ∧
    (s.mem.wordAtZP z).toNat = 256 * (s.mem.read ((z.toNat + 1) % 256)).toNat + (s.mem.read z.toNat).toNat

/-- `setZN` writes Z and N and keeps the other six flags (R39); `checkForOverflow` is true exactly when bit 7 differs (R140). -/
def Obligations.FlagHelpersWriteAndCompare : Prop :=
  (∀ p v : Byte, FlagsBecome p (setZN p v) [(.z, v == 0), (.n, v.getLsbD 7)]) ∧
  ∀ old new : Byte, checkForOverflow old new = true ↔ (128 ≤ old.toNat ↔ ¬ 128 ≤ new.toNat)

/-! ### The loop -/

/-- Within a run, a step is `exec` of an instruction and then what the loop does after it (R90, R326, R327): at a boundary
before the loop's exit, of the instruction the bytes at PC decode to; while the CPU stands in an instruction, of that one,
whatever the stop flag holds (R331, R334). -/
def Obligations.StepRunsTheDecodedInstruction : Prop :=
  ∀ (s : State) (i : Instr), s.running = true →
    ((∃ rest, s.inFlight = none ∧ s.atLoopExit = false ∧ decode s.bytesAtPC = .ok (i, rest)) ∨
      ∃ f, s.inFlight = some f ∧ f.instr = i) →
    step s = (match exec i s with
      | .next t => .next (s.afterExec t)
      | .fault r => .fault r
      | .refused r => .refused r)

/-- What the loop does after `exec` (R326, R327, R90). Once the instruction is complete, InstructionComplete with the
instruction's address, opcode and count is reported, the count is 0, `executed` is one more, and the run goes on unless a
decode error meets the strict policy. While the CPU waits inside `enter_cycle`, nothing. -/
def Obligations.CompletionReportsAndCounts : Prop :=
  ∀ s t : State,
    (∀ f, t.inFlight = some f → s.afterExec t = t) ∧
    (t.inFlight = none → ∀ (opAddr : Addr) (op : Byte),
      (s.inFlight = none ∧ opAddr = s.pc ∧ op = s.mem.read s.pc.toNat ∨
        ∃ f, s.inFlight = some f ∧ opAddr = f.opAddr ∧ op = f.op) →
      s.afterExec t = { t with
        reports := t.reports ++ [.instructionComplete opAddr op t.cycleCount]
        cycleCount := 0
        executed := t.executed + 1
        running := if decodeErrorRaised s t && t.cfg.illegalPolicy == .strict then false else t.running })

/-- The loop's exits (R90, R309, R331, R342, R346). Outside a run there is no step: the fault `notRunning` is the model's form
of that (log entry 7). At a boundary the stop flag or the budget ends the run before any fetch, in a step of its own, which is
the model's choice (log entry 11). Any other step, one inside an instruction included, goes on with the run unless the policy
is strict and the byte is illegal. -/
def Obligations.LoopExitsAtTheBoundaryOnly : Prop :=
  ∀ s : State,
    (s.running = false → step s = .fault .notRunning) ∧
    (s.running = true → s.inFlight = none → (s.stopRequested = true ∨ s.cfg.maxInstructions = some s.executed) →
      step s = .next { s with running := false }) ∧
    (∀ t, s.running = true →
      (s.inFlight ≠ none ∨ s.stopRequested = false ∧ s.cfg.maxInstructions ≠ some s.executed) → step s = .next t →
      t.running = true ∨ (s.cfg.illegalPolicy = .strict ∧ ∃ op, s.currentInstr = .illegal op))

/-- A step over an illegal byte (R301 to R303): both reports, PC one on, one gated cycle; the run ends exactly under the strict
policy. -/
def Obligations.IllegalOpcodeStep : Prop :=
  ∀ (s g : State) (op : Byte), s.running = true → s.atLoopExit = false → s.cycleCount = 0 → s.instrAtPC = .illegal op →
    s.passes 1 g →
    step s = .next { s.withGate g with
      pc := s.pc + 1
      cycleCount := 0
      reports := s.reports ++ [.illegalOpcode op s.pc, .instructionComplete s.pc op 1]
      executed := s.executed + 1
      running := s.cfg.illegalPolicy == .permissive }

/-- No step reports NotImplemented, and a step of a documented instruction reports no decode error (R304). -/
def Obligations.NotImplementedIsNeverRaised : Prop :=
  ∀ s t : State, step s = .next t →
    (∀ op a, Report.notImplemented op a ∈ t.reports → Report.notImplemented op a ∈ s.reports) ∧
    ((∀ op, s.currentInstr ≠ .illegal op) → t.clean = s.clean)

/-! ### Invariant, reset, host -/

/-- Every step keeps the invariant. Its clause that `done` is clear rests on the model's choice of when a waiting driver wakes
(log entry 20). -/
def Obligations.StepKeepsTheInvariant : Prop :=
  ∀ s t : State, s.inv = true → step s = .next t → t.inv = true

/-- The invariant holds after reset, with any parameters and any canonical memory. -/
def Obligations.ResetHasTheInvariant : Prop :=
  State.reset.inv = true ∧ ∀ (cfg : Config) (mem : Memory), mem.wf = true → (State.resetWith cfg mem).inv = true

/-- Every operation of the host or the driver keeps the invariant. That a stopped engine may be reset at any time is the
model's choice (log entry 21). -/
def Obligations.HostKeepsTheInvariant : Prop :=
  ∀ (op : HostOp) (s t : State), s.inv = true → s.hostDo op = .next t → t.inv = true

/-- What the host's reset of a stopped engine leaves (R44, R350). That nothing else of the machine changes, the clock driver's
place and the CPU's among it, which R350 does not name, is log entry 17; that a stopped engine may be reset after a run too is
the model's choice (log entry 21). -/
def Obligations.ResetLeavesTheStatedValues : Prop :=
  ∀ s : State, s.running = false →
    s.hostDo .reset = .next { s with
      pc := word (s.mem.read 0xFFFD) (s.mem.read 0xFFFC), sp := 0xFF, p := s.cfg.resetP, a := s.cfg.resetA, x := s.cfg.resetX
      y := s.cfg.resetY, stopRequested := false, running := false, cycleCount := 0, go := false, done := false, executed := 0
      reports := [] }

/-- The accessors (R43, R345; decision D30); a read of one is the field of the state. Of a stopped engine, a half of PC is
written alone, a whole PC in all its bits, and both read back (R26, R27); S, P, A, X, Y and a byte of memory are written
exactly; nothing else is touched, no flag, count or memory. Of a running engine, no accessor is written: the refusal is the
model's form of that (log entry 14). -/
def Obligations.AccessorsWriteOnePlaceExactly : Prop :=
  ∀ (s : State) (v : Byte) (w : Addr),
    (s.running = false →
      (∃ t, s.hostDo (.writePCL v) = .next t ∧ t = { s with pc := (s.pc &&& 0xFF00) ||| BitVec.ofNat 16 v.toNat } ∧
        t.pcl = v ∧ t.pch = s.pch) ∧
      (∃ t, s.hostDo (.writePCH v) = .next t ∧ t = { s with pc := (BitVec.ofNat 16 v.toNat <<< 8) ||| (s.pc &&& 0x00FF) } ∧
        t.pch = v ∧ t.pcl = s.pcl) ∧
      (∃ t, s.hostDo (.writePC w) = .next t ∧ t = { s with pc := w } ∧
        t.pch.toNat = w.toNat / 256 ∧ t.pcl.toNat = w.toNat % 256) ∧
      s.hostDo (.writeS v) = .next { s with sp := v } ∧
      s.hostDo (.writeP v) = .next { s with p := v } ∧
      s.hostDo (.writeA v) = .next { s with a := v } ∧
      s.hostDo (.writeX v) = .next { s with x := v } ∧
      s.hostDo (.writeY v) = .next { s with y := v } ∧
      (∃ t, s.hostDo (.load w v) = .next t ∧ t = { s with mem := t.mem } ∧
        ∀ k : Nat, t.mem.read k = if k = w.toNat then v else s.mem.read k)) ∧
    (s.running = true →
      ∀ op ∈ [HostOp.writePC w, .writePCH v, .writePCL v, .writeS v, .writeP v, .writeA v, .writeX v, .writeY v],
        s.hostDo op = .refused .hostWhileRunning)

/-- start, stop and join (R341 to R343). While the engine runs, a memory write, an accessor's write, a reset and a start are
refused: they have no move then (R341, R345), and the refusal is the model's form of that (log entry 14). -/
def Obligations.HostStartsAndStops : Prop :=
  ∀ s t : State,
    (s.running = false → s.hostDo .start = .next { s with running := true, stopRequested := false, executed := 0 }) ∧
    (∀ blocking, s.hostDo (.stop blocking) = .next { s with stopRequested := true }) ∧
    s.hostDo .join = .next s ∧
    (HostOp.join.returned t = true ↔ t.running = false) ∧ (HostOp.stop true).returned t = HostOp.join.returned t ∧
    (HostOp.stop false).returned t = true ∧
    (∀ (a : Addr) (v : Byte), s.running = true →
      ∀ op ∈ [HostOp.load a v, .writePC a, .writePCH v, .writePCL v, .writeS v, .writeP v, .writeA v, .writeX v, .writeY v, .reset,
        .start],
      s.hostDo op = .refused .hostWhileRunning)

/-- One `start_cycle` of a driver that makes no call by itself (its fields are the model's, log entry 5). Made while the CPU
is outside `enter_cycle`, it leaves `go` set, and the next gated cycle passes on it and returns the call (R329). Made while
the CPU stands inside `enter_cycle`, it lets the next step do exactly the cycle the CPU waits in and returns the call (R325,
R333, R334): the CPU then waits, counted, in the next cycle, or, after the last one, the instruction is complete. That the
call returns within the step is the model's choice (log entry 20). -/
def Obligations.StartCycleStepsOneGatedCycle : Prop :=
  ∀ s : State, s.cfg.gateMode = .handshake → s.go = false → s.done = false → s.driverWaiting = false →
    s.driverCalls = some 0 →
    ∃ t, s.hostDo .startCycle = .next t ∧ t = { s with go := true, driverWaiting := true } ∧
      HostOp.startCycle.returned t = false ∧
      (s.inFlight = none → t.gatedCycle = some { s with cycleCount := s.cycleCount + 1 }) ∧
      (∀ f, s.inFlight = some f → s.running = true → f.passed < f.instr.cycles →
        ∃ u, step t = .next u ∧ u.go = false ∧ u.done = false ∧ HostOp.startCycle.returned u = true ∧
          (f.passed + 1 < f.instr.cycles →
            u.inFlight = some { f with passed := f.passed + 1 } ∧ u.cycleCount = s.cycleCount + 1 ∧ u.reports = s.reports ∧
            u.executed = s.executed) ∧
          (f.passed + 1 = f.instr.cycles →
            u.inFlight = none ∧ u.cycleCount = 0 ∧ u.executed = s.executed + 1 ∧
            .instructionComplete f.opAddr f.op s.cycleCount ∈ u.reports))
end

