-- ==== Sys2Proof/Laws/State.lean ====
section
/-! SUPPORT. One lemma per field per register or memory update, and per gate copy, so that no proof unfolds a record update. -/

namespace Sys2Proof.Machine

variable (s : State)

@[simp] theorem State.setPC_pc (v : Addr) : (s.setPC v).pc = v := rfl
@[simp] theorem State.setPC_sp (v : Addr) : (s.setPC v).sp = s.sp := rfl
@[simp] theorem State.setPC_p (v : Addr) : (s.setPC v).p = s.p := rfl
@[simp] theorem State.setPC_a (v : Addr) : (s.setPC v).a = s.a := rfl
@[simp] theorem State.setPC_x (v : Addr) : (s.setPC v).x = s.x := rfl
@[simp] theorem State.setPC_y (v : Addr) : (s.setPC v).y = s.y := rfl
@[simp] theorem State.setPC_mem (v : Addr) : (s.setPC v).mem = s.mem := rfl
@[simp] theorem State.setPC_stopRequested (v : Addr) : (s.setPC v).stopRequested = s.stopRequested := rfl
@[simp] theorem State.setPC_running (v : Addr) : (s.setPC v).running = s.running := rfl
@[simp] theorem State.setPC_cycleCount (v : Addr) : (s.setPC v).cycleCount = s.cycleCount := rfl
@[simp] theorem State.setPC_go (v : Addr) : (s.setPC v).go = s.go := rfl
@[simp] theorem State.setPC_done (v : Addr) : (s.setPC v).done = s.done := rfl
@[simp] theorem State.setPC_executed (v : Addr) : (s.setPC v).executed = s.executed := rfl
@[simp] theorem State.setPC_reports (v : Addr) : (s.setPC v).reports = s.reports := rfl
@[simp] theorem State.setPC_cfg (v : Addr) : (s.setPC v).cfg = s.cfg := rfl
@[simp] theorem State.setPC_inFlight (v : Addr) : (s.setPC v).inFlight = s.inFlight := rfl
@[simp] theorem State.setPC_driverCalls (v : Addr) : (s.setPC v).driverCalls = s.driverCalls := rfl
@[simp] theorem State.setPC_driverWaiting (v : Addr) : (s.setPC v).driverWaiting = s.driverWaiting := rfl

@[simp] theorem State.setSP_pc (v : Byte) : (s.setSP v).pc = s.pc := rfl
@[simp] theorem State.setSP_sp (v : Byte) : (s.setSP v).sp = v := rfl
@[simp] theorem State.setSP_p (v : Byte) : (s.setSP v).p = s.p := rfl
@[simp] theorem State.setSP_a (v : Byte) : (s.setSP v).a = s.a := rfl
@[simp] theorem State.setSP_x (v : Byte) : (s.setSP v).x = s.x := rfl
@[simp] theorem State.setSP_y (v : Byte) : (s.setSP v).y = s.y := rfl
@[simp] theorem State.setSP_mem (v : Byte) : (s.setSP v).mem = s.mem := rfl
@[simp] theorem State.setSP_stopRequested (v : Byte) : (s.setSP v).stopRequested = s.stopRequested := rfl
@[simp] theorem State.setSP_running (v : Byte) : (s.setSP v).running = s.running := rfl
@[simp] theorem State.setSP_cycleCount (v : Byte) : (s.setSP v).cycleCount = s.cycleCount := rfl
@[simp] theorem State.setSP_go (v : Byte) : (s.setSP v).go = s.go := rfl
@[simp] theorem State.setSP_done (v : Byte) : (s.setSP v).done = s.done := rfl
@[simp] theorem State.setSP_executed (v : Byte) : (s.setSP v).executed = s.executed := rfl
@[simp] theorem State.setSP_reports (v : Byte) : (s.setSP v).reports = s.reports := rfl
@[simp] theorem State.setSP_cfg (v : Byte) : (s.setSP v).cfg = s.cfg := rfl
@[simp] theorem State.setSP_inFlight (v : Byte) : (s.setSP v).inFlight = s.inFlight := rfl
@[simp] theorem State.setSP_driverCalls (v : Byte) : (s.setSP v).driverCalls = s.driverCalls := rfl
@[simp] theorem State.setSP_driverWaiting (v : Byte) : (s.setSP v).driverWaiting = s.driverWaiting := rfl

@[simp] theorem State.setP_pc (v : Byte) : (s.setP v).pc = s.pc := rfl
@[simp] theorem State.setP_sp (v : Byte) : (s.setP v).sp = s.sp := rfl
@[simp] theorem State.setP_p (v : Byte) : (s.setP v).p = v := rfl
@[simp] theorem State.setP_a (v : Byte) : (s.setP v).a = s.a := rfl
@[simp] theorem State.setP_x (v : Byte) : (s.setP v).x = s.x := rfl
@[simp] theorem State.setP_y (v : Byte) : (s.setP v).y = s.y := rfl
@[simp] theorem State.setP_mem (v : Byte) : (s.setP v).mem = s.mem := rfl
@[simp] theorem State.setP_stopRequested (v : Byte) : (s.setP v).stopRequested = s.stopRequested := rfl
@[simp] theorem State.setP_running (v : Byte) : (s.setP v).running = s.running := rfl
@[simp] theorem State.setP_cycleCount (v : Byte) : (s.setP v).cycleCount = s.cycleCount := rfl
@[simp] theorem State.setP_go (v : Byte) : (s.setP v).go = s.go := rfl
@[simp] theorem State.setP_done (v : Byte) : (s.setP v).done = s.done := rfl
@[simp] theorem State.setP_executed (v : Byte) : (s.setP v).executed = s.executed := rfl
@[simp] theorem State.setP_reports (v : Byte) : (s.setP v).reports = s.reports := rfl
@[simp] theorem State.setP_cfg (v : Byte) : (s.setP v).cfg = s.cfg := rfl
@[simp] theorem State.setP_inFlight (v : Byte) : (s.setP v).inFlight = s.inFlight := rfl
@[simp] theorem State.setP_driverCalls (v : Byte) : (s.setP v).driverCalls = s.driverCalls := rfl
@[simp] theorem State.setP_driverWaiting (v : Byte) : (s.setP v).driverWaiting = s.driverWaiting := rfl

@[simp] theorem State.setA_pc (v : Byte) : (s.setA v).pc = s.pc := rfl
@[simp] theorem State.setA_sp (v : Byte) : (s.setA v).sp = s.sp := rfl
@[simp] theorem State.setA_p (v : Byte) : (s.setA v).p = s.p := rfl
@[simp] theorem State.setA_a (v : Byte) : (s.setA v).a = v := rfl
@[simp] theorem State.setA_x (v : Byte) : (s.setA v).x = s.x := rfl
@[simp] theorem State.setA_y (v : Byte) : (s.setA v).y = s.y := rfl
@[simp] theorem State.setA_mem (v : Byte) : (s.setA v).mem = s.mem := rfl
@[simp] theorem State.setA_stopRequested (v : Byte) : (s.setA v).stopRequested = s.stopRequested := rfl
@[simp] theorem State.setA_running (v : Byte) : (s.setA v).running = s.running := rfl
@[simp] theorem State.setA_cycleCount (v : Byte) : (s.setA v).cycleCount = s.cycleCount := rfl
@[simp] theorem State.setA_go (v : Byte) : (s.setA v).go = s.go := rfl
@[simp] theorem State.setA_done (v : Byte) : (s.setA v).done = s.done := rfl
@[simp] theorem State.setA_executed (v : Byte) : (s.setA v).executed = s.executed := rfl
@[simp] theorem State.setA_reports (v : Byte) : (s.setA v).reports = s.reports := rfl
@[simp] theorem State.setA_cfg (v : Byte) : (s.setA v).cfg = s.cfg := rfl
@[simp] theorem State.setA_inFlight (v : Byte) : (s.setA v).inFlight = s.inFlight := rfl
@[simp] theorem State.setA_driverCalls (v : Byte) : (s.setA v).driverCalls = s.driverCalls := rfl
@[simp] theorem State.setA_driverWaiting (v : Byte) : (s.setA v).driverWaiting = s.driverWaiting := rfl

@[simp] theorem State.setX_pc (v : Byte) : (s.setX v).pc = s.pc := rfl
@[simp] theorem State.setX_sp (v : Byte) : (s.setX v).sp = s.sp := rfl
@[simp] theorem State.setX_p (v : Byte) : (s.setX v).p = s.p := rfl
@[simp] theorem State.setX_a (v : Byte) : (s.setX v).a = s.a := rfl
@[simp] theorem State.setX_x (v : Byte) : (s.setX v).x = v := rfl
@[simp] theorem State.setX_y (v : Byte) : (s.setX v).y = s.y := rfl
@[simp] theorem State.setX_mem (v : Byte) : (s.setX v).mem = s.mem := rfl
@[simp] theorem State.setX_stopRequested (v : Byte) : (s.setX v).stopRequested = s.stopRequested := rfl
@[simp] theorem State.setX_running (v : Byte) : (s.setX v).running = s.running := rfl
@[simp] theorem State.setX_cycleCount (v : Byte) : (s.setX v).cycleCount = s.cycleCount := rfl
@[simp] theorem State.setX_go (v : Byte) : (s.setX v).go = s.go := rfl
@[simp] theorem State.setX_done (v : Byte) : (s.setX v).done = s.done := rfl
@[simp] theorem State.setX_executed (v : Byte) : (s.setX v).executed = s.executed := rfl
@[simp] theorem State.setX_reports (v : Byte) : (s.setX v).reports = s.reports := rfl
@[simp] theorem State.setX_cfg (v : Byte) : (s.setX v).cfg = s.cfg := rfl
@[simp] theorem State.setX_inFlight (v : Byte) : (s.setX v).inFlight = s.inFlight := rfl
@[simp] theorem State.setX_driverCalls (v : Byte) : (s.setX v).driverCalls = s.driverCalls := rfl
@[simp] theorem State.setX_driverWaiting (v : Byte) : (s.setX v).driverWaiting = s.driverWaiting := rfl

@[simp] theorem State.setY_pc (v : Byte) : (s.setY v).pc = s.pc := rfl
@[simp] theorem State.setY_sp (v : Byte) : (s.setY v).sp = s.sp := rfl
@[simp] theorem State.setY_p (v : Byte) : (s.setY v).p = s.p := rfl
@[simp] theorem State.setY_a (v : Byte) : (s.setY v).a = s.a := rfl
@[simp] theorem State.setY_x (v : Byte) : (s.setY v).x = s.x := rfl
@[simp] theorem State.setY_y (v : Byte) : (s.setY v).y = v := rfl
@[simp] theorem State.setY_mem (v : Byte) : (s.setY v).mem = s.mem := rfl
@[simp] theorem State.setY_stopRequested (v : Byte) : (s.setY v).stopRequested = s.stopRequested := rfl
@[simp] theorem State.setY_running (v : Byte) : (s.setY v).running = s.running := rfl
@[simp] theorem State.setY_cycleCount (v : Byte) : (s.setY v).cycleCount = s.cycleCount := rfl
@[simp] theorem State.setY_go (v : Byte) : (s.setY v).go = s.go := rfl
@[simp] theorem State.setY_done (v : Byte) : (s.setY v).done = s.done := rfl
@[simp] theorem State.setY_executed (v : Byte) : (s.setY v).executed = s.executed := rfl
@[simp] theorem State.setY_reports (v : Byte) : (s.setY v).reports = s.reports := rfl
@[simp] theorem State.setY_cfg (v : Byte) : (s.setY v).cfg = s.cfg := rfl
@[simp] theorem State.setY_inFlight (v : Byte) : (s.setY v).inFlight = s.inFlight := rfl
@[simp] theorem State.setY_driverCalls (v : Byte) : (s.setY v).driverCalls = s.driverCalls := rfl
@[simp] theorem State.setY_driverWaiting (v : Byte) : (s.setY v).driverWaiting = s.driverWaiting := rfl

@[simp] theorem State.memWrite_pc (k : Addr) (v : Byte) : (s.memWrite k v).pc = s.pc := rfl
@[simp] theorem State.memWrite_sp (k : Addr) (v : Byte) : (s.memWrite k v).sp = s.sp := rfl
@[simp] theorem State.memWrite_p (k : Addr) (v : Byte) : (s.memWrite k v).p = s.p := rfl
@[simp] theorem State.memWrite_a (k : Addr) (v : Byte) : (s.memWrite k v).a = s.a := rfl
@[simp] theorem State.memWrite_x (k : Addr) (v : Byte) : (s.memWrite k v).x = s.x := rfl
@[simp] theorem State.memWrite_y (k : Addr) (v : Byte) : (s.memWrite k v).y = s.y := rfl
@[simp] theorem State.memWrite_mem (k : Addr) (v : Byte) : (s.memWrite k v).mem = s.mem.write k.toNat v := rfl
@[simp] theorem State.memWrite_stopRequested (k : Addr) (v : Byte) : (s.memWrite k v).stopRequested = s.stopRequested := rfl
@[simp] theorem State.memWrite_running (k : Addr) (v : Byte) : (s.memWrite k v).running = s.running := rfl
@[simp] theorem State.memWrite_cycleCount (k : Addr) (v : Byte) : (s.memWrite k v).cycleCount = s.cycleCount := rfl
@[simp] theorem State.memWrite_go (k : Addr) (v : Byte) : (s.memWrite k v).go = s.go := rfl
@[simp] theorem State.memWrite_done (k : Addr) (v : Byte) : (s.memWrite k v).done = s.done := rfl
@[simp] theorem State.memWrite_executed (k : Addr) (v : Byte) : (s.memWrite k v).executed = s.executed := rfl
@[simp] theorem State.memWrite_reports (k : Addr) (v : Byte) : (s.memWrite k v).reports = s.reports := rfl
@[simp] theorem State.memWrite_cfg (k : Addr) (v : Byte) : (s.memWrite k v).cfg = s.cfg := rfl
@[simp] theorem State.memWrite_inFlight (k : Addr) (v : Byte) : (s.memWrite k v).inFlight = s.inFlight := rfl
@[simp] theorem State.memWrite_driverCalls (k : Addr) (v : Byte) : (s.memWrite k v).driverCalls = s.driverCalls := rfl
@[simp] theorem State.memWrite_driverWaiting (k : Addr) (v : Byte) : (s.memWrite k v).driverWaiting = s.driverWaiting := rfl

@[simp] theorem State.report_pc (r : Report) : (s.report r).pc = s.pc := rfl
@[simp] theorem State.report_sp (r : Report) : (s.report r).sp = s.sp := rfl
@[simp] theorem State.report_p (r : Report) : (s.report r).p = s.p := rfl
@[simp] theorem State.report_a (r : Report) : (s.report r).a = s.a := rfl
@[simp] theorem State.report_x (r : Report) : (s.report r).x = s.x := rfl
@[simp] theorem State.report_y (r : Report) : (s.report r).y = s.y := rfl
@[simp] theorem State.report_mem (r : Report) : (s.report r).mem = s.mem := rfl
@[simp] theorem State.report_stopRequested (r : Report) : (s.report r).stopRequested = s.stopRequested := rfl
@[simp] theorem State.report_running (r : Report) : (s.report r).running = s.running := rfl
@[simp] theorem State.report_cycleCount (r : Report) : (s.report r).cycleCount = s.cycleCount := rfl
@[simp] theorem State.report_go (r : Report) : (s.report r).go = s.go := rfl
@[simp] theorem State.report_done (r : Report) : (s.report r).done = s.done := rfl
@[simp] theorem State.report_executed (r : Report) : (s.report r).executed = s.executed := rfl
@[simp] theorem State.report_reports (r : Report) : (s.report r).reports = s.reports ++ [r] := rfl
@[simp] theorem State.report_cfg (r : Report) : (s.report r).cfg = s.cfg := rfl
@[simp] theorem State.report_inFlight (r : Report) : (s.report r).inFlight = s.inFlight := rfl
@[simp] theorem State.report_driverCalls (r : Report) : (s.report r).driverCalls = s.driverCalls := rfl
@[simp] theorem State.report_driverWaiting (r : Report) : (s.report r).driverWaiting = s.driverWaiting := rfl

@[simp] theorem State.withGate_pc (g : State) : (s.withGate g).pc = s.pc := rfl
@[simp] theorem State.withGate_sp (g : State) : (s.withGate g).sp = s.sp := rfl
@[simp] theorem State.withGate_p (g : State) : (s.withGate g).p = s.p := rfl
@[simp] theorem State.withGate_a (g : State) : (s.withGate g).a = s.a := rfl
@[simp] theorem State.withGate_x (g : State) : (s.withGate g).x = s.x := rfl
@[simp] theorem State.withGate_y (g : State) : (s.withGate g).y = s.y := rfl
@[simp] theorem State.withGate_mem (g : State) : (s.withGate g).mem = s.mem := rfl
@[simp] theorem State.withGate_stopRequested (g : State) : (s.withGate g).stopRequested = s.stopRequested := rfl
@[simp] theorem State.withGate_running (g : State) : (s.withGate g).running = s.running := rfl
@[simp] theorem State.withGate_cycleCount (g : State) : (s.withGate g).cycleCount = g.cycleCount := rfl
@[simp] theorem State.withGate_go (g : State) : (s.withGate g).go = g.go := rfl
@[simp] theorem State.withGate_done (g : State) : (s.withGate g).done = g.done := rfl
@[simp] theorem State.withGate_executed (g : State) : (s.withGate g).executed = s.executed := rfl
@[simp] theorem State.withGate_reports (g : State) : (s.withGate g).reports = s.reports := rfl
@[simp] theorem State.withGate_cfg (g : State) : (s.withGate g).cfg = s.cfg := rfl
@[simp] theorem State.withGate_inFlight (g : State) : (s.withGate g).inFlight = s.inFlight := rfl
@[simp] theorem State.withGate_driverCalls (g : State) : (s.withGate g).driverCalls = g.driverCalls := rfl
@[simp] theorem State.withGate_driverWaiting (g : State) : (s.withGate g).driverWaiting = g.driverWaiting := rfl

/-- Two states with equal fields are equal. -/
theorem State.ext_fields {s t : State} (h1 : s.pc = t.pc) (h2 : s.sp = t.sp) (h3 : s.p = t.p) (h4 : s.a = t.a)
    (h5 : s.x = t.x) (h6 : s.y = t.y) (h7 : s.mem = t.mem) (h8 : s.stopRequested = t.stopRequested)
    (h9 : s.running = t.running) (h10 : s.cycleCount = t.cycleCount) (h11 : s.go = t.go) (h12 : s.done = t.done)
    (h13 : s.executed = t.executed) (h14 : s.reports = t.reports) (h15 : s.cfg = t.cfg) (h16 : s.inFlight = t.inFlight)
    (h17 : s.driverCalls = t.driverCalls) (h18 : s.driverWaiting = t.driverWaiting) : s = t := by
  cases s; cases t; simp_all

end Sys2Proof.Machine
end

