-- ==== Sys2Proof/Laws/Gate.lean ====
section
/-! SUPPORT. What the gate can do (spec 60_exceptions.md R321 to R331): a gated cycle touches the count, the signals, the driver's
place and the CPU's place and nothing else; and what an instruction behind the gate can come to. -/

namespace Sys2Proof.Machine

/-! ### One gated cycle -/

/-- 1 while the CPU stands inside an `enter_cycle` that it has counted (R331), else 0. -/
def State.counted (s : State) : Nat :=
  match s.inFlight with
  | none => 0
  | some _ => 1

theorem State.counted_none {s : State} (h : s.inFlight = none) : s.counted = 0 := by simp [State.counted, h]

theorem State.counted_some {s : State} {f : InFlight} (h : s.inFlight = some f) : s.counted = 1 := by
  simp [State.counted, h]

theorem State.enterBegin_eq (s : State) : s.enterBegin = { s with cycleCount := s.cycleCount + 1 - s.counted } := by
  cases s with | mk _ _ _ _ _ _ _ _ _ _ _ _ _ _ _ f _ _ => cases f <;> rfl

/-- `t` differs from `s` at most in the gate's fields and the CPU's place. -/
def State.GateOnly (s t : State) : Prop := t = { s.withGate t with inFlight := t.inFlight }

theorem State.GateOnly.trans {s t u : State} (h1 : s.GateOnly t) (h2 : t.GateOnly u) : s.GateOnly u := by
  unfold State.GateOnly at *
  rw [h2, h1]
  rfl

theorem State.enterBegin_gateOnly (s : State) : s.GateOnly s.enterBegin := by rw [State.enterBegin_eq]; rfl

theorem State.driverBegin_gateOnly (s : State) :
    s.GateOnly s.driverBegin ∧ s.driverBegin.cycleCount = s.cycleCount := by
  unfold State.driverBegin State.startCycle; (repeat' split) <;> exact ⟨rfl, rfl⟩

theorem State.enterEnd_gateOnly {s t : State} (h : s.enterEnd = some t) :
    s.GateOnly t ∧ t.inFlight = none ∧ t.cycleCount = s.cycleCount := by
  unfold State.enterEnd at h
  (repeat' split at h) <;> simp at h <;> subst h <;> exact ⟨rfl, rfl, rfl⟩

theorem State.exitCycle_gateOnly (s : State) :
    s.GateOnly s.exitCycle ∧ s.exitCycle.inFlight = s.inFlight ∧ s.exitCycle.cycleCount = s.cycleCount := by
  unfold State.exitCycle; split <;> exact ⟨rfl, rfl, rfl⟩

theorem State.driverEnd_gateOnly (s : State) :
    s.GateOnly s.driverEnd ∧ s.driverEnd.inFlight = s.inFlight ∧ s.driverEnd.cycleCount = s.cycleCount := by
  unfold State.driverEnd; (repeat' split) <;> exact ⟨rfl, rfl, rfl⟩

/-- A passed gated cycle: only the gate's fields, the CPU outside `enter_cycle`, one cycle counted unless it was already. -/
theorem State.gatedCycle_some {s g : State} (h : s.gatedCycle = some g) :
    s.GateOnly g ∧ g.inFlight = none ∧ g.cycleCount = s.cycleCount + 1 - s.counted := by
  unfold State.gatedCycle at h
  split at h
  · next t ht =>
    obtain rfl := Option.some.inj h
    obtain ⟨h1, h2, h3⟩ := State.enterEnd_gateOnly ht
    obtain ⟨h4, h5⟩ := s.enterBegin.driverBegin_gateOnly
    obtain ⟨h6, h7, h8⟩ := t.exitCycle_gateOnly
    obtain ⟨h9, h10, h11⟩ := t.exitCycle.driverEnd_gateOnly
    refine ⟨s.enterBegin_gateOnly.trans (h4.trans (h1.trans (h6.trans h9))), by rw [h10, h7, h2], ?_⟩
    rw [h11, h8, h3, h5, State.enterBegin_eq]
  · simp at h

/-- A gate that blocks is a Handshake gate. -/
theorem State.gatedCycle_none {s : State} (h : s.gatedCycle = none) : s.cfg.gateMode = .handshake := by
  unfold State.gatedCycle at h
  split at h
  · simp at h
  · next ht =>
    have hc : s.enterBegin.driverBegin.cfg = s.cfg := by rw [s.enterBegin.driverBegin_gateOnly.1, State.enterBegin_eq]; rfl
    unfold State.enterEnd at ht
    rw [hc] at ht
    cases hm : s.cfg.gateMode with
    | alwaysOpen => rw [hm] at ht; simp at ht
    | handshake => rfl

/-! ### Gated cycles in a row -/

theorem State.gatedCycles_le (n : Nat) (s : State) : (s.gatedCycles n).1 ≤ n := by
  induction n generalizing s with
  | zero => exact Nat.le_refl 0
  | succ n ih =>
    rw [State.gatedCycles]
    split
    · exact Nat.succ_le_succ (ih _)
    · exact Nat.zero_le _

/-- Gated cycles change only the gate's fields; the CPU's place is left by a cycle that passes. -/
theorem State.gatedCycles_gateOnly (n : Nat) (s : State) :
    s.GateOnly (s.gatedCycles n).2 ∧
      (s.gatedCycles n).2.inFlight = if (s.gatedCycles n).1 = 0 then s.inFlight else none := by
  induction n generalizing s with
  | zero => exact ⟨rfl, rfl⟩
  | succ n ih =>
    rw [State.gatedCycles]
    split
    · next t ht =>
      obtain ⟨h1, h2, -⟩ := State.gatedCycle_some ht
      refine ⟨h1.trans (ih t).1, ?_⟩
      rw [(ih t).2, h2]
      simp
    · exact ⟨s.enterBegin_gateOnly, by simp [State.enterBegin_eq]⟩

/-- The count after gated cycles: one for each that passed, and one for the blocked one the CPU waits in; the one it waited in
before had been counted. -/
theorem State.gatedCycles_count (n : Nat) (s : State) :
    (s.gatedCycles n).2.cycleCount =
      if n = 0 then s.cycleCount
      else s.cycleCount + (s.gatedCycles n).1 + (if (s.gatedCycles n).1 = n then 0 else 1) - s.counted := by
  induction n generalizing s with
  | zero => rfl
  | succ n ih =>
    have hc : s.counted ≤ 1 := by unfold State.counted; split <;> simp
    rw [State.gatedCycles]
    split
    · next t ht =>
      obtain ⟨-, h1, h2⟩ := State.gatedCycle_some ht
      have ht0 : t.counted = 0 := State.counted_none h1
      have hle := State.gatedCycles_le n t
      rw [ih t, ht0, h2]
      cases n with
      | zero => simp [State.gatedCycles]
      | succ n =>
        simp only [Nat.add_eq_zero_iff, Nat.one_ne_zero, and_false, if_false, Nat.add_right_cancel_iff]
        split <;> omega
    · simp [State.enterBegin_eq]

/-- Gated cycles that do not all pass block behind a Handshake gate. -/
theorem State.gatedCycles_lt {n : Nat} {s : State} (h : (s.gatedCycles n).1 ≠ n) : s.cfg.gateMode = .handshake := by
  induction n generalizing s with
  | zero => exact absurd rfl h
  | succ n ih =>
    rw [State.gatedCycles] at h
    split at h
    · next t ht =>
      have h0 := ih (s := t) (by simpa using h)
      rw [(State.gatedCycle_some ht).1] at h0
      exact h0
    · next hn => exact State.gatedCycle_none hn

/-! ### The work of the cycles -/

theorem State.runCycles_append (cs ds : List Cycle) (s : State) :
    s.runCycles (cs ++ ds) = (s.runCycles cs).runCycles ds := by
  induction cs generalizing s with
  | nil => rfl
  | cons c cs ih => exact ih (c s)

/-- What each cycle keeps, all of them keep. -/
theorem State.runCycles_keeps {P : State → Prop} {cs : List Cycle} (hc : ∀ c ∈ cs, ∀ s, P s → P (c s)) {s : State} (h : P s) :
    P (s.runCycles cs) := by
  induction cs generalizing s with
  | nil => exact h
  | cons c cs ih => exact ih (fun d hd => hc d (by simp [hd])) (hc c (by simp) s h)

/-! ### An instruction behind the gate -/

/-- The instruction completes where the gate passes all its cycles. -/
theorem State.pace_passes {s : State} {i : Instr} {cycles : List Cycle} {g : State} (h : s.inFlight = none)
    (hg : s.gatedCycles cycles.length = (cycles.length, g)) :
    s.pace i cycles = .next { (s.runCycles cycles).withGate g with inFlight := none } := by
  simp [State.pace, State.passed, h, hg]

/-- The ways an instruction behind the gate answers a next state: as many of its remaining cycles are done as the gate passes;
it is complete if all are, and else the CPU stands inside the next `enter_cycle`. -/
theorem State.pace_next {s t : State} {i : Instr} {cycles : List Cycle} (h : s.pace i cycles = .next t) :
    ∃ k g f, s.gatedCycles (cycles.drop s.passed).length = (k, g) ∧
      t = { (s.runCycles ((cycles.drop s.passed).take k)).withGate g with inFlight := f } ∧
      ((k = (cycles.drop s.passed).length ∧ f = none) ∨
        (k < (cycles.drop s.passed).length ∧ (k = 0 → s.inFlight = none) ∧
          f = some { instr := i, opAddr := s.opAddr, op := s.op, p := s.foundP, passed := s.passed + k })) := by
  refine ⟨(s.gatedCycles (cycles.drop s.passed).length).1, (s.gatedCycles (cycles.drop s.passed).length).2, t.inFlight, rfl, ?_⟩
  have hle := State.gatedCycles_le (cycles.drop s.passed).length s
  simp only [State.pace] at h
  split at h
  · next hk =>
    obtain rfl := Host.Outcome.next.inj h
    exact ⟨rfl, .inl ⟨hk, rfl⟩⟩
  · next hk =>
    split at h
    · simp at h
    · next h0 =>
      obtain rfl := Host.Outcome.next.inj h
      exact ⟨rfl, .inr ⟨by omega, fun hz => Option.not_isSome_iff_eq_none.1 fun hf => h0 ⟨hz, hf⟩, rfl⟩⟩

end Sys2Proof.Machine
end

