-- ==== Sys2Proof/Laws/Ops.lean ====
section
/-! SUPPORT. One lemma per shared list of gated cycles, saying how many there are and all they do when the gate passes them: the
resolvers, the operand accesses, the stack, trap entry and return, branches and jumps. -/

namespace Sys2Proof.Machine

/-- The state with PC advanced by `k` bytes. -/
def State.advance (s : State) (k : Nat) : State := { s with pc := s.pc + BitVec.ofNat 16 k }

theorem State.fetchByte_eq (s : State) : s.fetchByte = s.advance 1 := rfl

theorem State.advance_advance (s : State) (k l : Nat) : (s.advance k).advance l = s.advance (k + l) := by
  simp [State.advance, BitVec.ofNat_add, BitVec.add_assoc]

/-- The effective address does not depend on PC. -/
@[simp] theorem State.ea_advance (s : State) (k : Nat) (m : MemOperand) : (s.advance k).ea m = s.ea m := by
  cases m <;> rfl

/-- The operand byte does not depend on PC. -/
@[simp] theorem State.operand_advance (s : State) (k : Nat) (o : ReadOperand) : (s.advance k).operand o = s.operand o := by
  cases o with
  | imm b => rfl
  | mem m => simp only [State.operand, State.ea_advance]; rfl

/-- The address of a stack byte as a number: page 1 (spec 10_state.md R31). -/
theorem stackAddr_toNat (v : Byte) : (stackAddr v).toNat = 0x100 + v.toNat := by
  have := v.isLt
  simp [stackAddr, stackOffset, zext16]
  omega

theorem State.push_eq (s : State) (v : Byte) :
    s.push v = { s with mem := s.mem.write (stackAddr s.sp).toNat v, sp := s.sp - 1 } := rfl

/-- A memory resolver advances PC past its operand bytes (spec 30_encoding.md R113). -/
theorem State.run_resolverCycles (s : State) (m : MemOperand) : s.runCycles (resolverCycles m) = s.advance m.bytes.length := by
  cases m <;>
    simp [resolverCycles, State.runCycles, State.fetchByte_eq, State.advance_advance, State.readOnly, MemOperand.bytes]

theorem resolverCycles_length (m : MemOperand) : (resolverCycles m).length = m.resolverReads := by cases m <;> rfl

/-- The opcode fetch and the resolver of an instruction with a memory operand. -/
theorem State.run_addressCycles (s : State) (m : MemOperand) :
    s.runCycles (addressCycles m) = s.advance (1 + m.bytes.length) := by
  rw [addressCycles, State.runCycles, State.run_resolverCycles, State.fetchByte_eq, State.advance_advance]

theorem addressCycles_length (m : MemOperand) : (addressCycles m).length = m.resolverReads + 1 := by cases m <;> rfl

/-- A reading instruction: its work on the operand byte, PC past the instruction. -/
theorem State.run_readCycles (s : State) (o : ReadOperand) (work : Byte → Cycle) :
    s.runCycles (readCycles o work) = work (s.operand o) (s.advance (Instr.ora o).length) := by
  cases o with
  | imm b =>
    have : s.fetchByte.setPC (s.pc + 2) = s.advance (Instr.ora (.imm b)).length := rfl
    simp only [readCycles, List.cons_append, List.nil_append, State.runCycles, this, State.operand_advance]
  | mem m =>
    simp only [readCycles, State.runCycles_append, State.run_addressCycles, State.runCycles, State.operand_advance]
    rfl

theorem readCycles_length (o : ReadOperand) (work : Byte → Cycle) : (readCycles o work).length = o.cycles := by
  cases o with
  | imm b => rfl
  | mem m => simp [readCycles, addressCycles_length, ReadOperand.cycles]

/-- A storing instruction: one byte at the effective address, PC past the instruction. -/
theorem State.run_storeCycles (s : State) (m : MemOperand) (value : State → Byte) :
    s.runCycles (storeCycles m value) =
      (s.advance (1 + m.bytes.length)).memWrite (s.ea m) (value (s.advance (1 + m.bytes.length))) := by
  simp only [storeCycles, State.runCycles_append, State.run_addressCycles, State.runCycles, State.ea_advance]

theorem storeCycles_length (m : MemOperand) (value : State → Byte) : (storeCycles m value).length = m.resolverReads + 2 := by
  simp [storeCycles, addressCycles_length]

/-- A read-modify-write from its beginning: one byte at the effective address, P, PC past the instruction
(spec 42_incdec_shift.md R170). -/
theorem State.run_modifyCycles (s : State) (m : MemOperand) (f : Byte → Byte → Byte × Byte) :
    s.runCycles (modifyCycles m s.p f) =
      ((s.advance (1 + m.bytes.length)).setP (f (s.mem.read (s.ea m).toNat) s.p).2).memWrite (s.ea m)
        (f (s.mem.read (s.ea m).toNat) s.p).1 := by
  have hea : ∀ (t : State) (q : Byte), (t.setP q).ea m = t.ea m := fun t q => by cases m <;> rfl
  simp only [modifyCycles, State.runCycles_append, State.run_addressCycles, State.runCycles, State.ea_advance, hea]
  rfl

theorem modifyCycles_length (m : MemOperand) (p : Byte) (f : Byte → Byte → Byte × Byte) :
    (modifyCycles m p f).length = m.resolverReads + 3 := by
  simp [modifyCycles, addressCycles_length]

/-- A shift from its beginning: its result written back, P, PC past the instruction. -/
theorem State.run_shiftCycles (s : State) (o : ShiftOperand) (f : Byte → Byte → Byte × Byte) :
    s.runCycles (shiftCycles o s.p f) =
      s.writeBack o (f (s.shiftValue o) s.p).1
        ((s.advance (Instr.asl o).length).setP (f (s.shiftValue o) s.p).2) := by
  cases o with
  | acc => rfl
  | mem m => simp only [shiftCycles, State.run_modifyCycles]; rfl

theorem shiftCycles_length (o : ShiftOperand) (p : Byte) (f : Byte → Byte → Byte × Byte) :
    (shiftCycles o p f).length = o.cycles := by
  cases o with
  | acc => rfl
  | mem m => simp [shiftCycles, modifyCycles_length, ShiftOperand.cycles]

/-- A branch: op_addr + 2, with the signed offset added when it is taken. The condition reads only P. -/
theorem State.run_branchCycles (s : State) (b : Byte) (cond : State → Bool) :
    s.runCycles (branchCycles b cond) =
      if cond (s.advance 1) then s.setPC (s.pc + 1 + 1 + sext16 b) else s.advance 2 := by
  simp only [branchCycles, State.runCycles, State.fetchByte_eq, State.advance_advance]
  split <;> rfl

/-- Raising a decode error: the report, and the opcode fetch. -/
theorem State.raiseDecodeError_eq (s : State) (mk : Byte → Addr → Report) (op : Byte) :
    s.raiseDecodeError mk op = { s.advance 1 with reports := s.reports ++ [mk op s.pc] } := rfl

/-- Pushing a return address, field by field. -/
theorem State.run_pushAddr (s : State) (w : Addr) :
    s.runCycles (pushAddr w) = { s with
      mem := (s.mem.write (stackAddr s.sp).toNat (hiByte w)).write (stackAddr (s.sp - 1)).toNat (loByte w)
      sp := s.sp - 1 - 1 } := rfl

/-- The word a return pulls, both bytes of which lie below the raised S. -/
theorem State.pulledAddr_eq (s : State) :
    s.pulledAddr = word (s.mem.read (stackAddr s.sp).toNat) (s.mem.read (stackAddr (s.sp - 1)).toNat) := rfl

/-- Trap entry, field by field. -/
theorem State.run_enterTrap (s : State) (ret : Addr) :
    s.runCycles (enterTrap ret) =
      let p' := putFlag (putFlag s.p .b true) .i true
      let m := ((s.mem.write (stackAddr s.sp).toNat (hiByte ret)).write (stackAddr (s.sp - 1)).toNat (loByte ret)).write
        (stackAddr (s.sp - 1 - 1)).toNat p'
      { s with p := p', mem := m, sp := s.sp - 1 - 1 - 1, pc := m.wordAt irqVector } := rfl

/-- Trap return, field by field. -/
theorem State.run_returnFromTrap (s : State) :
    s.runCycles returnFromTrap =
      { s with
        p := s.mem.read (stackAddr (s.sp + 1)).toNat
        sp := s.sp + 1 + 1 + 1
        pc := word (s.mem.read (stackAddr (s.sp + 1 + 1 + 1)).toNat) (s.mem.read (stackAddr (s.sp + 1 + 1)).toNat) } := by
  have h : s.sp + 1 + 1 + 1 - 1 = s.sp + 1 + 1 := by simp
  have : s.runCycles returnFromTrap = { s with
      p := s.mem.read (stackAddr (s.sp + 1)).toNat
      sp := s.sp + 1 + 1 + 1
      pc := word (s.mem.read (stackAddr (s.sp + 1 + 1 + 1)).toNat) (s.mem.read (stackAddr (s.sp + 1 + 1 + 1 - 1)).toNat) } := rfl
  rw [this, h]

/-- What an instruction leaves when the gate passes its cycles, in the terms of the statements; the CPU's place is as before,
at an instruction's beginning. -/
theorem State.pace_past {s g : State} {i : Instr} {cycles : List Cycle} (h : s.passes i.cycles g)
    (hl : cycles.length = i.cycles) :
    s.pace i cycles = .next { (s.runCycles cycles).withGate g with
      cycleCount := s.cycleCount + i.cycles, inFlight := s.inFlight } := by
  obtain ⟨h1, h2⟩ := h
  have hc := State.gatedCycles_count i.cycles s
  rw [h2, State.counted_none h1] at hc
  have hg : g.cycleCount = s.cycleCount + i.cycles := by
    simp only [if_true, Nat.sub_zero, Nat.add_zero] at hc
    split at hc <;> omega
  rw [State.pace_passes h1 (hl ▸ h2), ← hg, h1]
  rfl

/-- An instruction that completes from its beginning is one whose cycles the gate passes. -/
theorem State.pace_complete {s t : State} {i : Instr} {cycles : List Cycle} (h0 : s.inFlight = none)
    (h : s.pace i cycles = .next t) (ht : t.inFlight = none) : ∃ g, s.passes cycles.length g := by
  obtain ⟨k, g, f, hg, rfl, ⟨hk, -⟩ | ⟨-, -, hf⟩⟩ := State.pace_next h
  · rw [State.passed, h0, List.drop_zero] at hg hk
    exact ⟨g, h0, hk ▸ hg⟩
  · exact absurd (hf.symm.trans ht) (by simp)

end Sys2Proof.Machine
end

