-- ==== Sys2Proof/Laws/Frame.lean ====
section
/-! SUPPORT. The frame of each shared list of gated cycles, said once: a property of the machine that survives the few writes the
list makes survives every cycle of it, so it holds wherever the gate stops the instruction. `hpc` is the write to PC that every
list makes. -/

namespace Sys2Proof.Machine

/-- Each of the cycles keeps the property. -/
def CyclesKeep (P : State → Prop) (cs : List Cycle) : Prop := ∀ c ∈ cs, ∀ s, P s → P (c s)

variable {P : State → Prop}

theorem cyclesKeep_nil : CyclesKeep P [] := fun _ h => absurd h List.not_mem_nil

theorem cyclesKeep_cons {c : Cycle} {cs : List Cycle} (h : ∀ s, P s → P (c s)) (hs : CyclesKeep P cs) :
    CyclesKeep P (c :: cs) := List.forall_mem_cons.2 ⟨h, hs⟩

theorem cyclesKeep_append {cs ds : List Cycle} (h : CyclesKeep P cs) (hs : CyclesKeep P ds) : CyclesKeep P (cs ++ ds) :=
  fun c hc => (List.mem_append.1 hc).elim (h c) (hs c)

theorem addressCycles_keep (hpc : ∀ s v, P s → P (s.setPC v)) (m : MemOperand) : CyclesKeep P (addressCycles m) := by
  have fetch : ∀ s, P s → P s.fetchByte := fun s => hpc s _
  have read : ∀ s, P s → P (State.readOnly s) := fun _ h => h
  cases m with
  | zp | zpx | zpy => exact cyclesKeep_cons fetch (cyclesKeep_cons fetch cyclesKeep_nil)
  | abs | absx | absy => exact cyclesKeep_cons fetch (cyclesKeep_cons fetch (cyclesKeep_cons fetch cyclesKeep_nil))
  | izx | izy =>
    exact cyclesKeep_cons fetch (cyclesKeep_cons fetch (cyclesKeep_cons read (cyclesKeep_cons read cyclesKeep_nil)))

theorem readCycles_keep (hpc : ∀ s v, P s → P (s.setPC v)) (o : ReadOperand) {work : Byte → Cycle}
    (hw : ∀ v s, P s → P (work v s)) : CyclesKeep P (readCycles o work) := by
  refine cyclesKeep_append ?_ (cyclesKeep_cons (fun s h => hw _ s h) cyclesKeep_nil)
  cases o with
  | imm b => exact cyclesKeep_cons (fun s h => hpc _ _ (hpc s _ h)) cyclesKeep_nil
  | mem m => exact addressCycles_keep hpc m

theorem storeCycles_keep (hpc : ∀ s v, P s → P (s.setPC v)) (m : MemOperand) {value : State → Byte}
    (hw : ∀ s, P s → P (s.memWrite (s.ea m) (value s))) : CyclesKeep P (storeCycles m value) :=
  cyclesKeep_append (addressCycles_keep hpc m) (cyclesKeep_cons hw cyclesKeep_nil)

theorem modifyCycles_keep (hpc : ∀ s v, P s → P (s.setPC v)) (m : MemOperand) (p : Byte) (f : Byte → Byte → Byte × Byte)
    (hp : ∀ s, P s → P (s.setP (f (s.memRead (s.ea m)) s.p).2))
    (hw : ∀ s, P s → P (s.memWrite (s.ea m) (f (s.memRead (s.ea m)) p).1)) : CyclesKeep P (modifyCycles m p f) :=
  cyclesKeep_append (addressCycles_keep hpc m) (cyclesKeep_cons hp (cyclesKeep_cons hw cyclesKeep_nil))

theorem shiftCycles_keep (hpc : ∀ s v, P s → P (s.setPC v)) (o : ShiftOperand) (p : Byte) (f : Byte → Byte → Byte × Byte)
    (ha : o = .acc → ∀ s, P s → P ((s.setA (f s.a s.p).1).setP (f s.a s.p).2))
    (hp : ∀ m, o = .mem m → ∀ s, P s → P (s.setP (f (s.memRead (s.ea m)) s.p).2))
    (hw : ∀ m, o = .mem m → ∀ s, P s → P (s.memWrite (s.ea m) (f (s.memRead (s.ea m)) p).1)) :
    CyclesKeep P (shiftCycles o p f) := by
  cases o with
  | acc => exact cyclesKeep_cons (fun s h => ha rfl s.fetchByte (hpc _ _ h)) cyclesKeep_nil
  | mem m => exact modifyCycles_keep hpc m p f (hp m rfl) (hw m rfl)

theorem impliedCycles_keep (hpc : ∀ s v, P s → P (s.setPC v)) {work : Cycle} (hw : ∀ s, P s → P (work s)) :
    CyclesKeep P (impliedCycles work) := cyclesKeep_cons (fun _ h => hw _ (hpc _ _ h)) cyclesKeep_nil

theorem pushCycles_keep (hpc : ∀ s v, P s → P (s.setPC v)) {value : State → Byte}
    (hw : ∀ s, P s → P (s.push (value s))) : CyclesKeep P (pushCycles value) :=
  cyclesKeep_cons (fun _ h => hpc _ _ h) (cyclesKeep_cons hw cyclesKeep_nil)

theorem pullCycles_keep (hpc : ∀ s v, P s → P (s.setPC v)) (hs : ∀ s, P s → P s.raiseSP) {work : Byte → Cycle}
    (hw : ∀ v s, P s → P (work v s)) : CyclesKeep P (pullCycles work) :=
  cyclesKeep_cons (fun _ h => hs _ (hpc _ _ h)) (cyclesKeep_cons (fun s h => hw _ s h) cyclesKeep_nil)

theorem branchCycles_keep (hpc : ∀ s v, P s → P (s.setPC v)) (b : Byte) (cond : State → Bool) :
    CyclesKeep P (branchCycles b cond) := by
  refine cyclesKeep_cons (fun _ h => hpc _ _ h) (cyclesKeep_cons (fun s h => ?_) cyclesKeep_nil)
  split <;> exact hpc _ _ h

theorem enterTrap_keep (hpc : ∀ s v, P s → P (s.setPC v)) (ret : Addr)
    (hf : ∀ s, P s → P ((s.setFlag .b true).setFlag .i true)) (hp : ∀ s v, P s → P (s.push v)) :
    CyclesKeep P (enterTrap ret) :=
  cyclesKeep_cons (fun _ h => hf _ (hpc _ _ h)) (cyclesKeep_cons (fun _ h => hp _ _ h) (cyclesKeep_cons (fun _ h => hp _ _ h)
    (cyclesKeep_cons (fun _ h => hp _ _ h) (cyclesKeep_cons (fun _ h => h) (cyclesKeep_cons (fun _ h => hpc _ _ h)
      cyclesKeep_nil)))))

theorem returnFromTrap_keep (hpc : ∀ s v, P s → P (s.setPC v)) (hs : ∀ s, P s → P s.raiseSP)
    (hp : ∀ s v, P s → P (s.setP v)) : CyclesKeep P returnFromTrap :=
  cyclesKeep_cons (fun _ h => hs _ (hpc _ _ h)) (cyclesKeep_cons (fun _ h => hs _ (hp _ _ h)) (cyclesKeep_cons hs
    (cyclesKeep_cons (fun _ h => hpc _ _ h) cyclesKeep_nil)))

/-- What the cycles keep and the gate's fields do not touch holds of every next state of the instruction. -/
theorem State.pace_keep {s t : State} {i : Instr} {cs : List Cycle} (hc : CyclesKeep P cs)
    (hg : ∀ u g f, P u → P { State.withGate u g with inFlight := f }) (h : s.pace i cs = .next t) (hs : P s) : P t := by
  obtain ⟨k, g, f, -, rfl, -⟩ := State.pace_next h
  exact hg _ _ _ (State.runCycles_keeps (fun c hm => hc c (List.mem_of_mem_drop (List.mem_of_mem_take hm))) hs)

end Sys2Proof.Machine
end

