-- ==== Sys2Proof/Laws/Exec.lean ====
section
/-! SUPPORT. What an instruction can do, said once: `exec` is one list of as many gated cycles as the table of spec
70_reset_and_hazards.md R361 gives, behind the gate; its cycles reach the machine only through the named writes, and read
nothing of the gate. -/

namespace Sys2Proof.Machine

/-- The property is kept by every named write to a register, a byte of memory or the report log. -/
structure KeptByWrites (P : State → Prop) : Prop where
  pc : ∀ s v, P s → P (s.setPC v)
  sp : ∀ s v, P s → P (s.setSP v)
  p : ∀ s v, P s → P (s.setP v)
  a : ∀ s v, P s → P (s.setA v)
  x : ∀ s v, P s → P (s.setX v)
  y : ∀ s v, P s → P (s.setY v)
  mem : ∀ s k v, P s → P (s.memWrite k v)
  report : ∀ s r, P s → P (s.report r)

theorem KeptByWrites.push {P : State → Prop} (h : KeptByWrites P) (s : State) (v : Byte) (hs : P s) : P (s.push v) :=
  h.sp _ _ (h.mem _ _ _ hs)

/-- The state `s` with the gate's fields of `g`, and another CPU's place and other parameters. -/
def State.behind (s g : State) (f : Option InFlight) (cfg : Config) : State := { s.withGate g with inFlight := f, cfg := cfg }

/-- The cycle reads nothing of the gate, the CPU's place or the parameters. -/
def Blind (c : Cycle) : Prop :=
  ∀ (s g : State) (f : Option InFlight) (cfg : Config), c (s.behind g f cfg) = (c s).behind g f cfg

/-- Each of the cycles is blind. -/
def CyclesBlind (cs : List Cycle) : Prop := ∀ c ∈ cs, Blind c

theorem cyclesBlind_nil : CyclesBlind [] := fun _ h => absurd h List.not_mem_nil

theorem cyclesBlind_cons {c : Cycle} {cs : List Cycle} (h : Blind c) (hs : CyclesBlind cs) : CyclesBlind (c :: cs) :=
  List.forall_mem_cons.2 ⟨h, hs⟩

theorem cyclesBlind_append {cs ds : List Cycle} (h : CyclesBlind cs) (hs : CyclesBlind ds) : CyclesBlind (cs ++ ds) :=
  fun c hc => (List.mem_append.1 hc).elim (h c) (hs c)

theorem State.ea_behind (s g : State) (f : Option InFlight) (cfg : Config) (m : MemOperand) :
    (s.behind g f cfg).ea m = s.ea m := by cases m <;> rfl

theorem State.operand_behind (s g : State) (f : Option InFlight) (cfg : Config) (o : ReadOperand) :
    (s.behind g f cfg).operand o = s.operand o := by
  cases o with
  | imm b => rfl
  | mem m => simp only [State.operand, State.ea_behind]; rfl

theorem addressCycles_blind (m : MemOperand) : CyclesBlind (addressCycles m) := by
  have fetch : Blind State.fetchByte := fun _ _ _ _ => rfl
  have read : Blind State.readOnly := fun _ _ _ _ => rfl
  cases m with
  | zp | zpx | zpy => exact cyclesBlind_cons fetch (cyclesBlind_cons fetch cyclesBlind_nil)
  | abs | absx | absy => exact cyclesBlind_cons fetch (cyclesBlind_cons fetch (cyclesBlind_cons fetch cyclesBlind_nil))
  | izx | izy =>
    exact cyclesBlind_cons fetch (cyclesBlind_cons fetch (cyclesBlind_cons read (cyclesBlind_cons read cyclesBlind_nil)))

theorem readCycles_blind (o : ReadOperand) {work : Byte → Cycle}
    (hw : ∀ v, Blind (work v)) : CyclesBlind (readCycles o work) := by
  refine cyclesBlind_append ?_ (cyclesBlind_cons (fun s g f cfg => ?_) cyclesBlind_nil)
  · cases o with
    | imm b => exact cyclesBlind_cons (fun _ _ _ _ => rfl) cyclesBlind_nil
    | mem m => exact addressCycles_blind m
  · rw [State.operand_behind, hw]

theorem storeCycles_blind (m : MemOperand) {value : State → Byte} (hv : ∀ s g f cfg, value (s.behind g f cfg) = value s) :
    CyclesBlind (storeCycles m value) := by
  refine cyclesBlind_append (addressCycles_blind m) (cyclesBlind_cons (fun s g f cfg => ?_) cyclesBlind_nil)
  rw [State.ea_behind, hv]; rfl

theorem modifyCycles_blind (m : MemOperand) (p : Byte) (f : Byte → Byte → Byte × Byte) : CyclesBlind (modifyCycles m p f) := by
  refine cyclesBlind_append (addressCycles_blind m)
    (cyclesBlind_cons (fun s g f cfg => ?_) (cyclesBlind_cons (fun s g f cfg => ?_) cyclesBlind_nil))
  · rw [State.ea_behind]; rfl
  · rw [State.ea_behind]; rfl

theorem shiftCycles_blind (o : ShiftOperand) (p : Byte) (f : Byte → Byte → Byte × Byte) : CyclesBlind (shiftCycles o p f) := by
  cases o with
  | acc => exact cyclesBlind_cons (fun _ _ _ _ => rfl) cyclesBlind_nil
  | mem m => exact modifyCycles_blind m p f

theorem branchCycles_blind (b : Byte) {cond : State → Bool} (hc : ∀ s g f cfg, cond (s.behind g f cfg) = cond s) :
    CyclesBlind (branchCycles b cond) := by
  refine cyclesBlind_cons (fun _ _ _ _ => rfl) (cyclesBlind_cons (fun s g f cfg => ?_) cyclesBlind_nil)
  rw [hc]
  split <;> rfl

/-- Cycles that read nothing of the gate do the same work behind any gate. -/
theorem State.runCycles_behind {cs : List Cycle} (hc : CyclesBlind cs) (s g : State) (f : Option InFlight) (cfg : Config) :
    (s.behind g f cfg).runCycles cs = (s.runCycles cs).behind g f cfg := by
  induction cs generalizing s with
  | nil => rfl
  | cons c cs ih =>
    rw [State.runCycles, hc c (by simp), ih fun d hd => hc d (by simp [hd])]
    rfl

/-- The cycles of the instruction, given P as it found it and its `op_addr`: their number, what they can touch, what they cannot
read. -/
theorem exec_pace (i : Instr) : ∃ cycles : Byte → Addr → List Cycle,
    (∀ s, exec i s = s.pace i (cycles s.foundP s.opAddr)) ∧ (∀ p r, (cycles p r).length = i.cycles) ∧
    (∀ p r P, KeptByWrites P → CyclesKeep P (cycles p r)) ∧ ∀ p r, CyclesBlind (cycles p r) := by
  have one : ∀ {c : Cycle}, Blind c → CyclesBlind [c] := fun h => cyclesBlind_cons h cyclesBlind_nil
  have two : ∀ {c d : Cycle}, Blind c → Blind d → CyclesBlind [c, d] := fun h k => cyclesBlind_cons h (one k)
  have three : ∀ {c d e : Cycle}, Blind c → Blind d → Blind e → CyclesBlind [c, d, e] :=
    fun h k l => cyclesBlind_cons h (two k l)
  cases i with
  | ora o | and o | eor o | adc o | sbc o | lda o =>
    exact ⟨fun _ _ => readCycles o _, fun _ => rfl, fun _ _ => readCycles_length ..,
      fun _ _ _ h => readCycles_keep h.pc o fun _ _ hs => h.p _ _ (h.a _ _ hs),
      fun _ _ => readCycles_blind o fun _ _ _ _ _ => rfl⟩
  | ldx o =>
    exact ⟨fun _ _ => readCycles o _, fun _ => rfl, fun _ _ => readCycles_length ..,
      fun _ _ _ h => readCycles_keep h.pc o fun _ _ hs => h.p _ _ (h.x _ _ hs),
      fun _ _ => readCycles_blind o fun _ _ _ _ _ => rfl⟩
  | ldy o =>
    exact ⟨fun _ _ => readCycles o _, fun _ => rfl, fun _ _ => readCycles_length ..,
      fun _ _ _ h => readCycles_keep h.pc o fun _ _ hs => h.p _ _ (h.y _ _ hs),
      fun _ _ => readCycles_blind o fun _ _ _ _ _ => rfl⟩
  | cmp o | cpx o | cpy o =>
    exact ⟨fun _ _ => readCycles o _, fun _ => rfl, fun _ _ => readCycles_length ..,
      fun _ _ _ h => readCycles_keep h.pc o fun _ _ hs => h.p _ _ hs,
      fun _ _ => readCycles_blind o fun _ _ _ _ _ => rfl⟩
  | bit m =>
    exact ⟨fun _ _ => readCycles (.mem m) _, fun _ => rfl, fun _ _ => readCycles_length ..,
      fun _ _ _ h => readCycles_keep h.pc _ fun _ _ hs => h.p _ _ hs,
      fun _ _ => readCycles_blind _ fun _ _ _ _ _ => rfl⟩
  | sta m | stx m | sty m =>
    exact ⟨fun _ _ => storeCycles m _, fun _ => rfl, fun _ _ => storeCycles_length ..,
      fun _ _ _ h => storeCycles_keep h.pc m fun _ hs => h.mem _ _ _ hs,
      fun _ _ => storeCycles_blind m fun _ _ _ _ => rfl⟩
  | inc m | dec m =>
    exact ⟨fun p _ => modifyCycles m p _, fun _ => rfl, fun _ _ => modifyCycles_length ..,
      fun _ _ _ h => modifyCycles_keep h.pc m _ _ (fun _ hs => h.p _ _ hs) fun _ hs => h.mem _ _ _ hs,
      fun _ _ => modifyCycles_blind m _ _⟩
  | asl o | lsr o | rol o | ror o =>
    exact ⟨fun p _ => shiftCycles o p _, fun _ => rfl, fun _ _ => shiftCycles_length ..,
      fun _ _ _ h => shiftCycles_keep h.pc o _ _ (fun _ _ hs => h.p _ _ (h.a _ _ hs)) (fun _ _ _ hs => h.p _ _ hs)
        fun _ _ _ hs => h.mem _ _ _ hs,
      fun _ _ => shiftCycles_blind o _ _⟩
  | inx | dex | tax | tsx =>
    exact ⟨fun _ _ => impliedCycles _, fun _ => rfl, fun _ _ => rfl,
      fun _ _ _ h => impliedCycles_keep h.pc fun _ hs => h.p _ _ (h.x _ _ hs), fun _ _ => one fun _ _ _ _ => rfl⟩
  | iny | dey | tay =>
    exact ⟨fun _ _ => impliedCycles _, fun _ => rfl, fun _ _ => rfl,
      fun _ _ _ h => impliedCycles_keep h.pc fun _ hs => h.p _ _ (h.y _ _ hs), fun _ _ => one fun _ _ _ _ => rfl⟩
  | txa | tya =>
    exact ⟨fun _ _ => impliedCycles _, fun _ => rfl, fun _ _ => rfl,
      fun _ _ _ h => impliedCycles_keep h.pc fun _ hs => h.p _ _ (h.a _ _ hs), fun _ _ => one fun _ _ _ _ => rfl⟩
  | txs =>
    exact ⟨fun _ _ => impliedCycles _, fun _ => rfl, fun _ _ => rfl,
      fun _ _ _ h => impliedCycles_keep h.pc fun _ hs => h.sp _ _ hs, fun _ _ => one fun _ _ _ _ => rfl⟩
  | clc | sec | cld | sed | cli | sei | clv =>
    exact ⟨fun _ _ => impliedCycles _, fun _ => rfl, fun _ _ => rfl,
      fun _ _ _ h => impliedCycles_keep h.pc fun _ hs => h.p _ _ hs, fun _ _ => one fun _ _ _ _ => rfl⟩
  | pha | php =>
    exact ⟨fun _ _ => pushCycles _, fun _ => rfl, fun _ _ => rfl,
      fun _ _ _ h => pushCycles_keep h.pc fun _ hs => h.push _ _ hs, fun _ _ => two (fun _ _ _ _ => rfl) fun _ _ _ _ => rfl⟩
  | pla =>
    exact ⟨fun _ _ => pullCycles _, fun _ => rfl, fun _ _ => rfl,
      fun _ _ _ h => pullCycles_keep h.pc (fun _ hs => h.sp _ _ hs) fun _ _ hs => h.p _ _ (h.a _ _ hs),
      fun _ _ => two (fun _ _ _ _ => rfl) fun _ _ _ _ => rfl⟩
  | plp =>
    exact ⟨fun _ _ => pullCycles _, fun _ => rfl, fun _ _ => rfl,
      fun _ _ _ h => pullCycles_keep h.pc (fun _ hs => h.sp _ _ hs) fun _ _ hs => h.p _ _ hs,
      fun _ _ => two (fun _ _ _ _ => rfl) fun _ _ _ _ => rfl⟩
  | bpl b | bmi b | bvc b | bvs b | bcc b | bcs b | bne b | beq b =>
    exact ⟨fun _ _ => branchCycles b _, fun _ => rfl, fun _ _ => rfl, fun _ _ _ h => branchCycles_keep h.pc b _,
      fun _ _ => branchCycles_blind b fun _ _ _ _ => rfl⟩
  | brk =>
    exact ⟨fun _ r => enterTrap (r + 2), fun _ => rfl, fun _ _ => rfl,
      fun _ _ _ h => enterTrap_keep h.pc _ (fun _ hs => h.p _ _ (h.p _ _ hs)) h.push,
      fun _ _ => cyclesBlind_append (three (fun _ _ _ _ => rfl) (fun _ _ _ _ => rfl) fun _ _ _ _ => rfl)
        (three (fun _ _ _ _ => rfl) (fun _ _ _ _ => rfl) fun _ _ _ _ => rfl)⟩
  | rti =>
    exact ⟨fun _ _ => returnFromTrap, fun _ => rfl, fun _ _ => rfl,
      fun _ _ _ h => returnFromTrap_keep h.pc (fun _ hs => h.sp _ _ hs) h.p,
      fun _ _ => cyclesBlind_cons (fun _ _ _ _ => rfl)
        (three (fun _ _ _ _ => rfl) (fun _ _ _ _ => rfl) fun _ _ _ _ => rfl)⟩
  | jsr w =>
    exact ⟨fun _ _ => _, fun _ => rfl, fun _ _ => rfl,
      fun _ _ _ h => cyclesKeep_cons (fun _ hs => h.pc _ _ hs) (cyclesKeep_cons (fun _ hs => h.pc _ _ hs)
        (cyclesKeep_cons (fun _ hs => h.pc _ _ hs) (cyclesKeep_cons (fun _ hs => h.push _ _ hs)
          (cyclesKeep_cons (fun _ hs => h.pc _ _ (h.push _ _ hs)) cyclesKeep_nil)))),
      fun _ _ => cyclesBlind_append (cs := [_, _]) (two (fun _ _ _ _ => rfl) fun _ _ _ _ => rfl)
        (three (fun _ _ _ _ => rfl) (fun _ _ _ _ => rfl) fun _ _ _ _ => rfl)⟩
  | rts =>
    exact ⟨fun _ _ => _, fun _ => rfl, fun _ _ => rfl,
      fun _ _ _ h => cyclesKeep_cons (fun _ hs => h.sp _ _ (h.pc _ _ hs)) (cyclesKeep_cons (fun _ hs => h.sp _ _ hs)
        (cyclesKeep_cons (fun _ hs => h.pc _ _ hs) cyclesKeep_nil)),
      fun _ _ => three (fun _ _ _ _ => rfl) (fun _ _ _ _ => rfl) fun _ _ _ _ => rfl⟩
  | jmp t =>
    cases t with
    | abs w =>
      exact ⟨fun _ _ => _, fun _ => rfl, fun _ _ => rfl,
        fun _ _ _ h => cyclesKeep_cons (fun _ hs => h.pc _ _ hs) (cyclesKeep_cons (fun _ hs => h.pc _ _ hs)
          (cyclesKeep_cons (fun _ hs => h.pc _ _ hs) cyclesKeep_nil)),
        fun _ _ => three (fun _ _ _ _ => rfl) (fun _ _ _ _ => rfl) fun _ _ _ _ => rfl⟩
    | ind w =>
      exact ⟨fun _ _ => _, fun _ => rfl, fun _ _ => rfl,
        fun _ _ _ h => cyclesKeep_cons (fun _ hs => h.pc _ _ hs) (cyclesKeep_cons (fun _ hs => h.pc _ _ hs)
          (cyclesKeep_cons (fun _ hs => h.pc _ _ hs) (cyclesKeep_cons (fun _ hs => hs)
            (cyclesKeep_cons (fun _ hs => h.pc _ _ hs) cyclesKeep_nil)))),
        fun _ _ => cyclesBlind_append (cs := [_, _]) (two (fun _ _ _ _ => rfl) fun _ _ _ _ => rfl)
          (three (fun _ _ _ _ => rfl) (fun _ _ _ _ => rfl) fun _ _ _ _ => rfl)⟩
  | nop =>
    exact ⟨fun _ _ => [State.fetchByte], fun _ => rfl, fun _ _ => rfl,
      fun _ _ _ h => cyclesKeep_cons (fun _ hs => h.pc _ _ hs) cyclesKeep_nil, fun _ _ => one fun _ _ _ _ => rfl⟩
  | illegal op =>
    exact ⟨fun _ _ => [_], fun _ => rfl, fun _ _ => rfl,
      fun _ _ _ h => cyclesKeep_cons (fun _ hs => h.report _ _ (h.pc _ _ hs)) cyclesKeep_nil,
      fun _ _ => one fun _ _ _ _ => rfl⟩

/-- A property kept by the named writes and by what the gate does holds after every instruction that answers a next state. -/
theorem exec_keep {P : State → Prop} (hw : KeptByWrites P)
    (hg : ∀ u g f, P u → P { State.withGate u g with inFlight := f }) {i : Instr} {s t : State} (h : exec i s = .next t)
    (hs : P s) : P t := by
  obtain ⟨cycles, he, -, hk, -⟩ := exec_pace i
  exact State.pace_keep (hk _ _ P hw) hg (he s ▸ h) hs

end Sys2Proof.Machine
end

