-- ==== Sys2Proof/Laws/Flags.lean ====
section
/-! SUPPORT. Reading a flag of a status byte after one flag of it is written (spec 10_state.md R33). -/

namespace Sys2Proof.Machine

/-- A flag written reads back; the others are kept. -/
@[simp] theorem getFlag_putFlag (p : Byte) (f g : Flag) (val : Bool) :
    getFlag (putFlag p f val) g = if g = f then val else getFlag p g := by
  cases f <;> cases g <;> cases val <;> simp [getFlag, putFlag, Flag.mask, Flag.bit]

theorem flag_ext {p q : Byte} (h : ∀ f, getFlag p f = getFlag q f) : p = q := by
  apply BitVec.eq_of_getLsbD_eq
  intro i hi
  have h0 := h .c; have h1 := h .z; have h2 := h .i; have h3 := h .d
  have h4 := h .b; have h5 := h .u; have h6 := h .v; have h7 := h .n
  simp only [getFlag, Flag.bit] at *
  interval_cases i <;> assumption

end Sys2Proof.Machine
end

