-- ==== Sys2Proof/Laws/Memory.lean ====
section
/-! SUPPORT. The laws of memory (spec 20_memory.md R61): a read after a write, and the canonical form, which every operation
keeps. -/

namespace Sys2Proof.Machine

@[simp] theorem Memory.read_erase_same (m : Memory) (a : Nat) : (m.erase a).read a = unlistedByte := by
  induction m with
  | nil => rfl
  | cons c m ih =>
    obtain ⟨k, v⟩ := c
    by_cases h : k = a <;> simp [Memory.erase, Memory.read, h, ih]

theorem Memory.read_erase_other (m : Memory) {a b : Nat} (hab : b ≠ a) : (m.erase a).read b = m.read b := by
  induction m with
  | nil => rfl
  | cons c m ih =>
    obtain ⟨k, v⟩ := c
    by_cases h : k = a
    · subst h; simp [Memory.erase, Memory.read, ih, Ne.symm hab]
    · by_cases hb : k = b
      · subst hb; simp [Memory.erase, Memory.read, h]
      · simp [Memory.erase, Memory.read, h, hb, ih]

theorem Memory.read_insert_same (m : Memory) (a : Nat) (v : Byte) (h : m.read a = unlistedByte ∧ ∀ c ∈ m, c.1 ≠ a) :
    (m.insert a v).read a = v := by
  induction m with
  | nil => simp [Memory.insert, Memory.read]
  | cons c m ih =>
    obtain ⟨k, w⟩ := c
    have hk : k ≠ a := h.2 (k, w) (by simp)
    by_cases hlt : a < k
    · simp [Memory.insert, Memory.read, hlt]
    · simp only [Memory.insert, hlt, if_false, Memory.read, hk]
      refine ih ⟨?_, fun c hc => h.2 c (by simp [hc])⟩
      simpa [Memory.read, hk] using h.1

theorem Memory.read_insert_other (m : Memory) {a b : Nat} (v : Byte) (hab : b ≠ a) : (m.insert a v).read b = m.read b := by
  induction m with
  | nil => simp [Memory.insert, Memory.read, Ne.symm hab]
  | cons c m ih =>
    obtain ⟨k, w⟩ := c
    by_cases hlt : a < k
    · simp [Memory.insert, Memory.read, hlt, Ne.symm hab]
    · by_cases hk : k = b
      · subst hk; simp [Memory.insert, Memory.read, hlt]
      · simp [Memory.insert, Memory.read, hlt, hk, ih]

theorem Memory.erase_keys (m : Memory) (a : Nat) : ∀ c ∈ m.erase a, c ∈ m ∧ c.1 ≠ a := by
  induction m with
  | nil => simp [Memory.erase]
  | cons c m ih =>
    obtain ⟨k, v⟩ := c
    intro c hc
    by_cases h : k = a
    · simp only [Memory.erase, h, if_true] at hc
      exact ⟨by simp [(ih c hc).1], (ih c hc).2⟩
    · simp only [Memory.erase, h, if_false, List.mem_cons] at hc
      rcases hc with rfl | hc
      · exact ⟨by simp, h⟩
      · exact ⟨by simp [(ih c hc).1], (ih c hc).2⟩

/-- A byte written reads back. -/
@[simp] theorem Memory.read_write_same (m : Memory) (a : Nat) (v : Byte) : (m.write a v).read a = v := by
  unfold Memory.write
  split
  · next h => simp [h]
  · exact Memory.read_insert_same _ _ _ ⟨by simp, fun c hc => (Memory.erase_keys m a c hc).2⟩

/-- A write leaves every other address alone. -/
theorem Memory.read_write_other (m : Memory) {a b : Nat} (v : Byte) (hab : b ≠ a) : (m.write a v).read b = m.read b := by
  unfold Memory.write
  split
  · exact Memory.read_erase_other m hab
  · rw [Memory.read_insert_other _ v hab, Memory.read_erase_other m hab]

theorem Memory.read_write (m : Memory) (a b : Nat) (v : Byte) :
    (m.write a v).read b = if b = a then v else m.read b := by
  split
  · next h => subst h; simp
  · next h => exact Memory.read_write_other m v h

theorem Memory.wf_cons {k : Nat} {v : Byte} {m : Memory} :
    Memory.wf ((k, v) :: m) = true ↔ k < 65536 ∧ v ≠ unlistedByte ∧ (∀ c ∈ m, k < c.1) ∧ m.wf = true := by
  simp [Memory.wf, and_assoc]

theorem Memory.wf_erase {m : Memory} (h : m.wf = true) (a : Nat) : (m.erase a).wf = true := by
  induction m with
  | nil => rfl
  | cons c m ih =>
    obtain ⟨k, v⟩ := c
    obtain ⟨h1, h2, h3, h4⟩ := Memory.wf_cons.1 h
    by_cases hk : k = a
    · simpa [Memory.erase, hk] using ih h4
    · simp only [Memory.erase, hk, if_false]
      exact Memory.wf_cons.2 ⟨h1, h2, fun c hc => h3 c (Memory.erase_keys m a c hc).1, ih h4⟩

theorem Memory.insert_keys (m : Memory) (a : Nat) (v : Byte) : ∀ c ∈ m.insert a v, c.1 = a ∨ c ∈ m := by
  induction m with
  | nil => simp [Memory.insert]
  | cons c m ih =>
    obtain ⟨k, w⟩ := c
    intro c hc
    by_cases hlt : a < k
    · simp only [Memory.insert, hlt, if_true, List.mem_cons] at hc
      rcases hc with rfl | rfl | hc <;> simp_all
    · simp only [Memory.insert, hlt, if_false, List.mem_cons] at hc
      rcases hc with rfl | hc
      · simp
      · rcases ih c hc with h | h <;> simp [h]

theorem Memory.wf_insert {m : Memory} (h : m.wf = true) {a : Nat} (ha : a < 65536) {v : Byte} (hv : v ≠ unlistedByte)
    (hna : ∀ c ∈ m, c.1 ≠ a) : (m.insert a v).wf = true := by
  induction m with
  | nil => exact Memory.wf_cons.2 ⟨ha, hv, by simp, rfl⟩
  | cons c m ih =>
    obtain ⟨k, w⟩ := c
    obtain ⟨h1, h2, h3, h4⟩ := Memory.wf_cons.1 h
    have hk : k ≠ a := hna (k, w) (by simp)
    by_cases hlt : a < k
    · simp only [Memory.insert, hlt, if_true]
      refine Memory.wf_cons.2 ⟨ha, hv, fun c hc => ?_, h⟩
      rcases List.mem_cons.1 hc with rfl | hc
      · exact hlt
      · exact Nat.lt_trans hlt (h3 c hc)
    · simp only [Memory.insert, hlt, if_false]
      refine Memory.wf_cons.2 ⟨h1, h2, fun c hc => ?_, ih h4 fun c hc => hna c (by simp [hc])⟩
      rcases Memory.insert_keys m a v c hc with h | h
      · omega
      · exact h3 c h

/-- A write at an address of the space keeps the canonical form. -/
theorem Memory.wf_write {m : Memory} (h : m.wf = true) {a : Nat} (ha : a < 65536) (v : Byte) : (m.write a v).wf = true := by
  unfold Memory.write
  split
  · exact Memory.wf_erase h a
  · next hv => exact Memory.wf_insert (Memory.wf_erase h a) ha hv fun c hc => (Memory.erase_keys m a c hc).2

end Sys2Proof.Machine
end

