-- ==== Sys2Proof/Laws/PerInstr.lean ====
section
/-! SUPPORT. The family EncodedLength: an instruction of the opcode table encodes to one, two or three bytes, as many as its
format has (spec 30_encoding.md R93, R113). -/

namespace Sys2Proof.Laws.EncodedLength

/-- A well-formed instruction has as many encoded bytes as `Instr.length` says, one to three. -/
def Statement (i : Instr) : Prop :=
  i.wellFormed = true → (encode i).length = i.length ∧ 1 ≤ i.length ∧ i.length ≤ 3

/-- An instruction with an opcode encodes to its length, whatever its operand bytes are. -/
theorem of_opcode {i : Instr} {op : Byte} (n : Nat) (h : i.opcode = some op) (hb : i.operandBytes.length = n) (hn : n ≤ 2) :
    (encode i).length = i.length ∧ 1 ≤ i.length ∧ i.length ≤ 3 := by
  have he : (encode i).length = i.length := by rw [encode, h, Instr.length, List.length_cons, Nat.add_comm]
  rw [he, Instr.length, hb]
  omega

theorem ora (o : ReadOperand) : Statement (.ora o) := by
  intro h
  rcases o with b | (b | b | b | w | w | w | b | b) <;>
    first
    | exact of_opcode 1 rfl rfl (by decide)
    | exact of_opcode 2 rfl rfl (by decide)
    | exact Bool.noConfusion h

theorem and (o : ReadOperand) : Statement (.and o) := by
  intro h
  rcases o with b | (b | b | b | w | w | w | b | b) <;>
    first
    | exact of_opcode 1 rfl rfl (by decide)
    | exact of_opcode 2 rfl rfl (by decide)
    | exact Bool.noConfusion h

theorem eor (o : ReadOperand) : Statement (.eor o) := by
  intro h
  rcases o with b | (b | b | b | w | w | w | b | b) <;>
    first
    | exact of_opcode 1 rfl rfl (by decide)
    | exact of_opcode 2 rfl rfl (by decide)
    | exact Bool.noConfusion h

theorem adc (o : ReadOperand) : Statement (.adc o) := by
  intro h
  rcases o with b | (b | b | b | w | w | w | b | b) <;>
    first
    | exact of_opcode 1 rfl rfl (by decide)
    | exact of_opcode 2 rfl rfl (by decide)
    | exact Bool.noConfusion h

theorem sbc (o : ReadOperand) : Statement (.sbc o) := by
  intro h
  rcases o with b | (b | b | b | w | w | w | b | b) <;>
    first
    | exact of_opcode 1 rfl rfl (by decide)
    | exact of_opcode 2 rfl rfl (by decide)
    | exact Bool.noConfusion h

theorem cmp (o : ReadOperand) : Statement (.cmp o) := by
  intro h
  rcases o with b | (b | b | b | w | w | w | b | b) <;>
    first
    | exact of_opcode 1 rfl rfl (by decide)
    | exact of_opcode 2 rfl rfl (by decide)
    | exact Bool.noConfusion h

theorem cpx (o : ReadOperand) : Statement (.cpx o) := by
  intro h
  rcases o with b | (b | b | b | w | w | w | b | b) <;>
    first
    | exact of_opcode 1 rfl rfl (by decide)
    | exact of_opcode 2 rfl rfl (by decide)
    | exact Bool.noConfusion h

theorem cpy (o : ReadOperand) : Statement (.cpy o) := by
  intro h
  rcases o with b | (b | b | b | w | w | w | b | b) <;>
    first
    | exact of_opcode 1 rfl rfl (by decide)
    | exact of_opcode 2 rfl rfl (by decide)
    | exact Bool.noConfusion h

theorem inc (m : MemOperand) : Statement (.inc m) := by
  intro h
  rcases m with b | b | b | w | w | w | b | b <;>
    first
    | exact of_opcode 1 rfl rfl (by decide)
    | exact of_opcode 2 rfl rfl (by decide)
    | exact Bool.noConfusion h

theorem dec (m : MemOperand) : Statement (.dec m) := by
  intro h
  rcases m with b | b | b | w | w | w | b | b <;>
    first
    | exact of_opcode 1 rfl rfl (by decide)
    | exact of_opcode 2 rfl rfl (by decide)
    | exact Bool.noConfusion h

theorem inx : Statement .inx :=
  fun _ => of_opcode 0 rfl rfl (by decide)

theorem dex : Statement .dex :=
  fun _ => of_opcode 0 rfl rfl (by decide)

theorem iny : Statement .iny :=
  fun _ => of_opcode 0 rfl rfl (by decide)

theorem dey : Statement .dey :=
  fun _ => of_opcode 0 rfl rfl (by decide)

theorem asl (o : ShiftOperand) : Statement (.asl o) := by
  intro h
  rcases o with _ | (b | b | b | w | w | w | b | b) <;>
    first
    | exact of_opcode 0 rfl rfl (by decide)
    | exact of_opcode 1 rfl rfl (by decide)
    | exact of_opcode 2 rfl rfl (by decide)
    | exact Bool.noConfusion h

theorem lsr (o : ShiftOperand) : Statement (.lsr o) := by
  intro h
  rcases o with _ | (b | b | b | w | w | w | b | b) <;>
    first
    | exact of_opcode 0 rfl rfl (by decide)
    | exact of_opcode 1 rfl rfl (by decide)
    | exact of_opcode 2 rfl rfl (by decide)
    | exact Bool.noConfusion h

theorem rol (o : ShiftOperand) : Statement (.rol o) := by
  intro h
  rcases o with _ | (b | b | b | w | w | w | b | b) <;>
    first
    | exact of_opcode 0 rfl rfl (by decide)
    | exact of_opcode 1 rfl rfl (by decide)
    | exact of_opcode 2 rfl rfl (by decide)
    | exact Bool.noConfusion h

theorem ror (o : ShiftOperand) : Statement (.ror o) := by
  intro h
  rcases o with _ | (b | b | b | w | w | w | b | b) <;>
    first
    | exact of_opcode 0 rfl rfl (by decide)
    | exact of_opcode 1 rfl rfl (by decide)
    | exact of_opcode 2 rfl rfl (by decide)
    | exact Bool.noConfusion h

theorem lda (o : ReadOperand) : Statement (.lda o) := by
  intro h
  rcases o with b | (b | b | b | w | w | w | b | b) <;>
    first
    | exact of_opcode 1 rfl rfl (by decide)
    | exact of_opcode 2 rfl rfl (by decide)
    | exact Bool.noConfusion h

theorem ldx (o : ReadOperand) : Statement (.ldx o) := by
  intro h
  rcases o with b | (b | b | b | w | w | w | b | b) <;>
    first
    | exact of_opcode 1 rfl rfl (by decide)
    | exact of_opcode 2 rfl rfl (by decide)
    | exact Bool.noConfusion h

theorem ldy (o : ReadOperand) : Statement (.ldy o) := by
  intro h
  rcases o with b | (b | b | b | w | w | w | b | b) <;>
    first
    | exact of_opcode 1 rfl rfl (by decide)
    | exact of_opcode 2 rfl rfl (by decide)
    | exact Bool.noConfusion h

theorem sta (m : MemOperand) : Statement (.sta m) := by
  intro h
  rcases m with b | b | b | w | w | w | b | b <;>
    first
    | exact of_opcode 1 rfl rfl (by decide)
    | exact of_opcode 2 rfl rfl (by decide)
    | exact Bool.noConfusion h

theorem stx (m : MemOperand) : Statement (.stx m) := by
  intro h
  rcases m with b | b | b | w | w | w | b | b <;>
    first
    | exact of_opcode 1 rfl rfl (by decide)
    | exact of_opcode 2 rfl rfl (by decide)
    | exact Bool.noConfusion h

theorem sty (m : MemOperand) : Statement (.sty m) := by
  intro h
  rcases m with b | b | b | w | w | w | b | b <;>
    first
    | exact of_opcode 1 rfl rfl (by decide)
    | exact of_opcode 2 rfl rfl (by decide)
    | exact Bool.noConfusion h

theorem tax : Statement .tax :=
  fun _ => of_opcode 0 rfl rfl (by decide)

theorem txa : Statement .txa :=
  fun _ => of_opcode 0 rfl rfl (by decide)

theorem tay : Statement .tay :=
  fun _ => of_opcode 0 rfl rfl (by decide)

theorem tya : Statement .tya :=
  fun _ => of_opcode 0 rfl rfl (by decide)

theorem tsx : Statement .tsx :=
  fun _ => of_opcode 0 rfl rfl (by decide)

theorem txs : Statement .txs :=
  fun _ => of_opcode 0 rfl rfl (by decide)

theorem pha : Statement .pha :=
  fun _ => of_opcode 0 rfl rfl (by decide)

theorem pla : Statement .pla :=
  fun _ => of_opcode 0 rfl rfl (by decide)

theorem php : Statement .php :=
  fun _ => of_opcode 0 rfl rfl (by decide)

theorem plp : Statement .plp :=
  fun _ => of_opcode 0 rfl rfl (by decide)

theorem bpl (b : Byte) : Statement (.bpl b) :=
  fun _ => of_opcode 1 rfl rfl (by decide)

theorem bmi (b : Byte) : Statement (.bmi b) :=
  fun _ => of_opcode 1 rfl rfl (by decide)

theorem bvc (b : Byte) : Statement (.bvc b) :=
  fun _ => of_opcode 1 rfl rfl (by decide)

theorem bvs (b : Byte) : Statement (.bvs b) :=
  fun _ => of_opcode 1 rfl rfl (by decide)

theorem bcc (b : Byte) : Statement (.bcc b) :=
  fun _ => of_opcode 1 rfl rfl (by decide)

theorem bcs (b : Byte) : Statement (.bcs b) :=
  fun _ => of_opcode 1 rfl rfl (by decide)

theorem bne (b : Byte) : Statement (.bne b) :=
  fun _ => of_opcode 1 rfl rfl (by decide)

theorem beq (b : Byte) : Statement (.beq b) :=
  fun _ => of_opcode 1 rfl rfl (by decide)

theorem brk : Statement .brk :=
  fun _ => of_opcode 0 rfl rfl (by decide)

theorem rti : Statement .rti :=
  fun _ => of_opcode 0 rfl rfl (by decide)

theorem jsr (w : Addr) : Statement (.jsr w) :=
  fun _ => of_opcode 2 rfl rfl (by decide)

theorem rts : Statement .rts :=
  fun _ => of_opcode 0 rfl rfl (by decide)

theorem jmp (t : JumpOperand) : Statement (.jmp t) := by
  intro _
  rcases t with w | w <;> exact of_opcode 2 rfl rfl (by decide)

theorem bit (m : MemOperand) : Statement (.bit m) := by
  intro h
  rcases m with b | b | b | w | w | w | b | b <;>
    first
    | exact of_opcode 1 rfl rfl (by decide)
    | exact of_opcode 2 rfl rfl (by decide)
    | exact Bool.noConfusion h

theorem clc : Statement .clc :=
  fun _ => of_opcode 0 rfl rfl (by decide)

theorem sec : Statement .sec :=
  fun _ => of_opcode 0 rfl rfl (by decide)

theorem cld : Statement .cld :=
  fun _ => of_opcode 0 rfl rfl (by decide)

theorem sed : Statement .sed :=
  fun _ => of_opcode 0 rfl rfl (by decide)

theorem cli : Statement .cli :=
  fun _ => of_opcode 0 rfl rfl (by decide)

theorem sei : Statement .sei :=
  fun _ => of_opcode 0 rfl rfl (by decide)

theorem clv : Statement .clv :=
  fun _ => of_opcode 0 rfl rfl (by decide)

theorem nop : Statement .nop :=
  fun _ => of_opcode 0 rfl rfl (by decide)

theorem illegal (op : Byte) : Statement (.illegal op) := by
  intro h
  exact of_opcode 0 (if_pos h) rfl (by decide)

end Sys2Proof.Laws.EncodedLength
end

