-- ==== Sys2Proof/Tests/Slice0.lean ====
section
/-! SUPPORT. Tests. The words are those of the Encoding lines of spec 41 to 44, the expected results those of
95_test_vectors.md (the vector's name stands beside the test), and the last part shows, for every statement that has
hypotheses, states and operands that meet them. -/

namespace Sys2Proof.Tests

open Sys2Proof.Machine

/-! ### WellFormed: an ill-formed term for each check -/

theorem test_wf_alu_has_no_zpy :
    ([Instr.ora (.mem (.zpy 0)), .and (.mem (.zpy 0)), .eor (.mem (.zpy 0)), .adc (.mem (.zpy 0)), .sbc (.mem (.zpy 0)),
      .cmp (.mem (.zpy 0)), .lda (.mem (.zpy 0)), .sta (.zpy 0)].any Instr.wellFormed) = false := by decide

theorem test_wf_plain_is_zp_or_abs :
    ([Instr.cpx (.mem (.absx 0)), .cpy (.mem (.zpx 0)), .bit (.zpx 0)].any Instr.wellFormed) = false := by decide

theorem test_wf_ldx_has_no_x_index :
    ([Instr.ldx (.mem (.zpx 0)), .ldx (.mem (.absx 0)), .stx (.zpx 0), .stx (.absy 0)].any Instr.wellFormed) = false := by decide

theorem test_wf_ldy_has_no_y_index :
    ([Instr.ldy (.mem (.zpy 0)), .ldy (.mem (.absy 0)), .sty (.zpy 0), .sty (.absx 0)].any Instr.wellFormed) = false := by decide

theorem test_wf_modify_has_no_y_index_and_no_pointer :
    ([Instr.inc (.absy 0), .dec (.izx 0), .asl (.mem (.izy 0)), .lsr (.mem (.zpy 0)), .rol (.mem (.absy 0)),
      .ror (.mem (.izx 0))].any Instr.wellFormed) = false := by decide

theorem test_wf_documented_byte_is_not_illegal : (Instr.illegal 0xEA).wellFormed = false := by decide

theorem test_wf_a_form_of_each_check :
    ([Instr.ora (.imm 0), .cpx (.mem (.abs 0)), .ldx (.mem (.zpy 0)), .ldy (.mem (.absx 0)), .sta (.izy 0), .stx (.zpy 0),
      .sty (.zpx 0), .bit (.zp 0), .inc (.zpx 0), .asl .acc, .jmp (.ind 0), .illegal 0xFF].all Instr.wellFormed) = true := by
  decide

/-! ### Decoding: the words of every Encoding line -/

/-- These bytes are exactly this instruction's. -/
def decodesTo (bytes : List Byte) (i : Instr) : Bool :=
  match decode bytes with
  | .ok (j, []) => j == i
  | _ => false

-- R143
theorem test_decode_ora :
    (decodesTo [0x09, 0x34] (.ora (.imm 0x34)) && decodesTo [0x05, 0x34] (.ora (.mem (.zp 0x34))) &&
      decodesTo [0x15, 0x34] (.ora (.mem (.zpx 0x34))) && decodesTo [0x0D, 0x34, 0x12] (.ora (.mem (.abs 0x1234))) &&
      decodesTo [0x1D, 0x34, 0x12] (.ora (.mem (.absx 0x1234))) &&
      decodesTo [0x19, 0x34, 0x12] (.ora (.mem (.absy 0x1234))) && decodesTo [0x01, 0x34] (.ora (.mem (.izx 0x34))) &&
      decodesTo [0x11, 0x34] (.ora (.mem (.izy 0x34)))) = true := by decide

-- R144
theorem test_decode_and :
    (decodesTo [0x29, 0x34] (.and (.imm 0x34)) && decodesTo [0x25, 0x34] (.and (.mem (.zp 0x34))) &&
      decodesTo [0x35, 0x34] (.and (.mem (.zpx 0x34))) && decodesTo [0x2D, 0x34, 0x12] (.and (.mem (.abs 0x1234))) &&
      decodesTo [0x3D, 0x34, 0x12] (.and (.mem (.absx 0x1234))) &&
      decodesTo [0x39, 0x34, 0x12] (.and (.mem (.absy 0x1234))) && decodesTo [0x21, 0x34] (.and (.mem (.izx 0x34))) &&
      decodesTo [0x31, 0x34] (.and (.mem (.izy 0x34)))) = true := by decide

-- R145
theorem test_decode_eor :
    (decodesTo [0x49, 0x34] (.eor (.imm 0x34)) && decodesTo [0x45, 0x34] (.eor (.mem (.zp 0x34))) &&
      decodesTo [0x55, 0x34] (.eor (.mem (.zpx 0x34))) && decodesTo [0x4D, 0x34, 0x12] (.eor (.mem (.abs 0x1234))) &&
      decodesTo [0x5D, 0x34, 0x12] (.eor (.mem (.absx 0x1234))) &&
      decodesTo [0x59, 0x34, 0x12] (.eor (.mem (.absy 0x1234))) && decodesTo [0x41, 0x34] (.eor (.mem (.izx 0x34))) &&
      decodesTo [0x51, 0x34] (.eor (.mem (.izy 0x34)))) = true := by decide

-- R146
theorem test_decode_adc :
    (decodesTo [0x69, 0x34] (.adc (.imm 0x34)) && decodesTo [0x65, 0x34] (.adc (.mem (.zp 0x34))) &&
      decodesTo [0x75, 0x34] (.adc (.mem (.zpx 0x34))) && decodesTo [0x6D, 0x34, 0x12] (.adc (.mem (.abs 0x1234))) &&
      decodesTo [0x7D, 0x34, 0x12] (.adc (.mem (.absx 0x1234))) &&
      decodesTo [0x79, 0x34, 0x12] (.adc (.mem (.absy 0x1234))) && decodesTo [0x61, 0x34] (.adc (.mem (.izx 0x34))) &&
      decodesTo [0x71, 0x34] (.adc (.mem (.izy 0x34)))) = true := by decide

-- R147
theorem test_decode_sbc :
    (decodesTo [0xE9, 0x34] (.sbc (.imm 0x34)) && decodesTo [0xE5, 0x34] (.sbc (.mem (.zp 0x34))) &&
      decodesTo [0xF5, 0x34] (.sbc (.mem (.zpx 0x34))) && decodesTo [0xED, 0x34, 0x12] (.sbc (.mem (.abs 0x1234))) &&
      decodesTo [0xFD, 0x34, 0x12] (.sbc (.mem (.absx 0x1234))) &&
      decodesTo [0xF9, 0x34, 0x12] (.sbc (.mem (.absy 0x1234))) && decodesTo [0xE1, 0x34] (.sbc (.mem (.izx 0x34))) &&
      decodesTo [0xF1, 0x34] (.sbc (.mem (.izy 0x34)))) = true := by decide

-- R148
theorem test_decode_cmp :
    (decodesTo [0xC9, 0x34] (.cmp (.imm 0x34)) && decodesTo [0xC5, 0x34] (.cmp (.mem (.zp 0x34))) &&
      decodesTo [0xD5, 0x34] (.cmp (.mem (.zpx 0x34))) && decodesTo [0xCD, 0x34, 0x12] (.cmp (.mem (.abs 0x1234))) &&
      decodesTo [0xDD, 0x34, 0x12] (.cmp (.mem (.absx 0x1234))) &&
      decodesTo [0xD9, 0x34, 0x12] (.cmp (.mem (.absy 0x1234))) && decodesTo [0xC1, 0x34] (.cmp (.mem (.izx 0x34))) &&
      decodesTo [0xD1, 0x34] (.cmp (.mem (.izy 0x34)))) = true := by decide

-- R149
theorem test_decode_cpx :
    (decodesTo [0xE0, 0x34] (.cpx (.imm 0x34)) && decodesTo [0xE4, 0x34] (.cpx (.mem (.zp 0x34))) &&
      decodesTo [0xEC, 0x34, 0x12] (.cpx (.mem (.abs 0x1234)))) = true := by decide

-- R150
theorem test_decode_cpy :
    (decodesTo [0xC0, 0x34] (.cpy (.imm 0x34)) && decodesTo [0xC4, 0x34] (.cpy (.mem (.zp 0x34))) &&
      decodesTo [0xCC, 0x34, 0x12] (.cpy (.mem (.abs 0x1234)))) = true := by decide

-- R171
theorem test_decode_inc :
    (decodesTo [0xE6, 0x34] (.inc (.zp 0x34)) && decodesTo [0xF6, 0x34] (.inc (.zpx 0x34)) &&
      decodesTo [0xEE, 0x34, 0x12] (.inc (.abs 0x1234)) &&
      decodesTo [0xFE, 0x34, 0x12] (.inc (.absx 0x1234))) = true := by decide

-- R172
theorem test_decode_dec :
    (decodesTo [0xC6, 0x34] (.dec (.zp 0x34)) && decodesTo [0xD6, 0x34] (.dec (.zpx 0x34)) &&
      decodesTo [0xCE, 0x34, 0x12] (.dec (.abs 0x1234)) &&
      decodesTo [0xDE, 0x34, 0x12] (.dec (.absx 0x1234))) = true := by decide

-- R173
theorem test_decode_inx : decodesTo [0xE8] .inx = true := by decide

-- R174
theorem test_decode_dex : decodesTo [0xCA] .dex = true := by decide

-- R175
theorem test_decode_iny : decodesTo [0xC8] .iny = true := by decide

-- R176
theorem test_decode_dey : decodesTo [0x88] .dey = true := by decide

-- R177
theorem test_decode_asl :
    (decodesTo [0x0A] (.asl .acc) && decodesTo [0x06, 0x34] (.asl (.mem (.zp 0x34))) &&
      decodesTo [0x16, 0x34] (.asl (.mem (.zpx 0x34))) && decodesTo [0x0E, 0x34, 0x12] (.asl (.mem (.abs 0x1234))) &&
      decodesTo [0x1E, 0x34, 0x12] (.asl (.mem (.absx 0x1234)))) = true := by decide

-- R178
theorem test_decode_lsr :
    (decodesTo [0x4A] (.lsr .acc) && decodesTo [0x46, 0x34] (.lsr (.mem (.zp 0x34))) &&
      decodesTo [0x56, 0x34] (.lsr (.mem (.zpx 0x34))) && decodesTo [0x4E, 0x34, 0x12] (.lsr (.mem (.abs 0x1234))) &&
      decodesTo [0x5E, 0x34, 0x12] (.lsr (.mem (.absx 0x1234)))) = true := by decide

-- R179
theorem test_decode_rol :
    (decodesTo [0x2A] (.rol .acc) && decodesTo [0x26, 0x34] (.rol (.mem (.zp 0x34))) &&
      decodesTo [0x36, 0x34] (.rol (.mem (.zpx 0x34))) && decodesTo [0x2E, 0x34, 0x12] (.rol (.mem (.abs 0x1234))) &&
      decodesTo [0x3E, 0x34, 0x12] (.rol (.mem (.absx 0x1234)))) = true := by decide

-- R180
theorem test_decode_ror :
    (decodesTo [0x6A] (.ror .acc) && decodesTo [0x66, 0x34] (.ror (.mem (.zp 0x34))) &&
      decodesTo [0x76, 0x34] (.ror (.mem (.zpx 0x34))) && decodesTo [0x6E, 0x34, 0x12] (.ror (.mem (.abs 0x1234))) &&
      decodesTo [0x7E, 0x34, 0x12] (.ror (.mem (.absx 0x1234)))) = true := by decide

-- R200
theorem test_decode_lda :
    (decodesTo [0xA9, 0x34] (.lda (.imm 0x34)) && decodesTo [0xA5, 0x34] (.lda (.mem (.zp 0x34))) &&
      decodesTo [0xB5, 0x34] (.lda (.mem (.zpx 0x34))) && decodesTo [0xAD, 0x34, 0x12] (.lda (.mem (.abs 0x1234))) &&
      decodesTo [0xBD, 0x34, 0x12] (.lda (.mem (.absx 0x1234))) &&
      decodesTo [0xB9, 0x34, 0x12] (.lda (.mem (.absy 0x1234))) && decodesTo [0xA1, 0x34] (.lda (.mem (.izx 0x34))) &&
      decodesTo [0xB1, 0x34] (.lda (.mem (.izy 0x34)))) = true := by decide

-- R201
theorem test_decode_ldx :
    (decodesTo [0xA2, 0x34] (.ldx (.imm 0x34)) && decodesTo [0xA6, 0x34] (.ldx (.mem (.zp 0x34))) &&
      decodesTo [0xB6, 0x34] (.ldx (.mem (.zpy 0x34))) && decodesTo [0xAE, 0x34, 0x12] (.ldx (.mem (.abs 0x1234))) &&
      decodesTo [0xBE, 0x34, 0x12] (.ldx (.mem (.absy 0x1234)))) = true := by decide

-- R202
theorem test_decode_ldy :
    (decodesTo [0xA0, 0x34] (.ldy (.imm 0x34)) && decodesTo [0xA4, 0x34] (.ldy (.mem (.zp 0x34))) &&
      decodesTo [0xB4, 0x34] (.ldy (.mem (.zpx 0x34))) && decodesTo [0xAC, 0x34, 0x12] (.ldy (.mem (.abs 0x1234))) &&
      decodesTo [0xBC, 0x34, 0x12] (.ldy (.mem (.absx 0x1234)))) = true := by decide

-- R203
theorem test_decode_sta :
    (decodesTo [0x85, 0x34] (.sta (.zp 0x34)) && decodesTo [0x95, 0x34] (.sta (.zpx 0x34)) &&
      decodesTo [0x8D, 0x34, 0x12] (.sta (.abs 0x1234)) && decodesTo [0x9D, 0x34, 0x12] (.sta (.absx 0x1234)) &&
      decodesTo [0x99, 0x34, 0x12] (.sta (.absy 0x1234)) && decodesTo [0x81, 0x34] (.sta (.izx 0x34)) &&
      decodesTo [0x91, 0x34] (.sta (.izy 0x34))) = true := by decide

-- R204
theorem test_decode_stx :
    (decodesTo [0x86, 0x34] (.stx (.zp 0x34)) && decodesTo [0x96, 0x34] (.stx (.zpy 0x34)) &&
      decodesTo [0x8E, 0x34, 0x12] (.stx (.abs 0x1234))) = true := by decide

-- R205
theorem test_decode_sty :
    (decodesTo [0x84, 0x34] (.sty (.zp 0x34)) && decodesTo [0x94, 0x34] (.sty (.zpx 0x34)) &&
      decodesTo [0x8C, 0x34, 0x12] (.sty (.abs 0x1234))) = true := by decide

-- R206
theorem test_decode_tax : decodesTo [0xAA] .tax = true := by decide

-- R207
theorem test_decode_txa : decodesTo [0x8A] .txa = true := by decide

-- R208
theorem test_decode_tay : decodesTo [0xA8] .tay = true := by decide

-- R209
theorem test_decode_tya : decodesTo [0x98] .tya = true := by decide

-- R210
theorem test_decode_tsx : decodesTo [0xBA] .tsx = true := by decide

-- R211
theorem test_decode_txs : decodesTo [0x9A] .txs = true := by decide

-- R212
theorem test_decode_pha : decodesTo [0x48] .pha = true := by decide

-- R213
theorem test_decode_pla : decodesTo [0x68] .pla = true := by decide

-- R214
theorem test_decode_php : decodesTo [0x08] .php = true := by decide

-- R215
theorem test_decode_plp : decodesTo [0x28] .plp = true := by decide

-- R241
theorem test_decode_bpl : decodesTo [0x10, 0x34] (.bpl 0x34) = true := by decide

-- R242
theorem test_decode_bmi : decodesTo [0x30, 0x34] (.bmi 0x34) = true := by decide

-- R243
theorem test_decode_bvc : decodesTo [0x50, 0x34] (.bvc 0x34) = true := by decide

-- R244
theorem test_decode_bvs : decodesTo [0x70, 0x34] (.bvs 0x34) = true := by decide

-- R245
theorem test_decode_bcc : decodesTo [0x90, 0x34] (.bcc 0x34) = true := by decide

-- R246
theorem test_decode_bcs : decodesTo [0xB0, 0x34] (.bcs 0x34) = true := by decide

-- R247
theorem test_decode_bne : decodesTo [0xD0, 0x34] (.bne 0x34) = true := by decide

-- R248
theorem test_decode_beq : decodesTo [0xF0, 0x34] (.beq 0x34) = true := by decide

-- R249
theorem test_decode_brk : decodesTo [0x00] .brk = true := by decide

-- R250
theorem test_decode_rti : decodesTo [0x40] .rti = true := by decide

-- R251
theorem test_decode_jsr : decodesTo [0x20, 0x34, 0x12] (.jsr 0x1234) = true := by decide

-- R252
theorem test_decode_rts : decodesTo [0x60] .rts = true := by decide

-- R253
theorem test_decode_jmp :
    (decodesTo [0x4C, 0x34, 0x12] (.jmp (.abs 0x1234)) &&
      decodesTo [0x6C, 0x34, 0x12] (.jmp (.ind 0x1234))) = true := by decide

-- R254
theorem test_decode_bit :
    (decodesTo [0x24, 0x34] (.bit (.zp 0x34)) && decodesTo [0x2C, 0x34, 0x12] (.bit (.abs 0x1234))) = true := by decide

-- R256
theorem test_decode_clc : decodesTo [0x18] .clc = true := by decide

-- R257
theorem test_decode_sec : decodesTo [0x38] .sec = true := by decide

-- R258
theorem test_decode_cld : decodesTo [0xD8] .cld = true := by decide

-- R259
theorem test_decode_sed : decodesTo [0xF8] .sed = true := by decide

-- R260
theorem test_decode_cli : decodesTo [0x58] .cli = true := by decide

-- R261
theorem test_decode_sei : decodesTo [0x78] .sei = true := by decide

-- R262
theorem test_decode_clv : decodesTo [0xB8] .clv = true := by decide

-- R263
theorem test_decode_nop : decodesTo [0xEA] .nop = true := by decide

-- R115
theorem test_decode_illegal :
    (decodesTo [0x02] (.illegal 0x02) && decodesTo [0x80] (.illegal 0x80) && decodesTo [0xFF] (.illegal 0xFF)) = true := by
  decide

/-- The table's numbering of the bits: 4C 34 12 as the first row of three bytes, and a row whose table word stops at 8 bits. -/
theorem test_table_word :
    decodeTableWord 24 0x12344C = some (.jmp (.abs 0x1234)) ∧ decodeTableWord 8 0x4C = some (.jmp (.abs 0)) ∧
      decodeTableWord 8 0xEA = some .nop := by decide

/-! ### One step of each instruction, from spec 95_test_vectors.md -/

/-- A machine in a run with `code` at `at_`, the bytes `cells` in memory, P as given. -/
def machine (at_ : Addr) (code : List Byte) (p : Byte) (cells : List (Addr × Byte)) : State :=
  let s := cells.foldl (fun s c => s.memWrite c.1 c.2) State.reset
  (((s.setPC at_).setP p).storeBytes at_ code).start

/-- The step gives a next state of which `q` holds. -/
def goesTo (s : State) (q : State → Bool) : Bool :=
  match step s with
  | .next t => q t
  | _ => false

/-- The step's last report is the completion with `n` gated cycles. -/
def took (t : State) (n : Nat) : Bool :=
  match t.reports.getLast? with
  | some (.instructionComplete _ _ k) => k == n
  | _ => false

-- E9
theorem test_ora_zp : goesTo ((machine 0x0200 [0x05, 0x2A] 0x00 [(0x2A, 0x81)]).setA 0x02)
    (fun t => t.a == 0x83 && t.p == 0x80 && t.pc == 0x0202 && took t 3) = true := by decide

-- E4
theorem test_and_imm : goesTo ((machine 0x0200 [0x29, 0x0F] 0x41 []).setA 0xF0)
    (fun t => t.a == 0x00 && t.p == 0x43 && took t 2) = true := by decide

-- E4
theorem test_eor_imm : goesTo ((machine 0x0200 [0x49, 0xFF] 0x00 []).setA 0x0F)
    (fun t => t.a == 0xF0 && t.p == 0x80 && took t 2) = true := by decide

-- V-ADC1
theorem test_adc_sign_change : goesTo ((machine 0x0200 [0x69, 0x01] 0x00 []).setA 0x7F)
    (fun t => t.a == 0x80 && t.p == 0xC0 && took t 2) = true := by decide

-- V-ADC6
theorem test_adc_carry_in : goesTo ((machine 0x0200 [0x69, 0x00] 0x01 []).setA 0xFF)
    (fun t => t.a == 0x00 && t.p == 0x43 && took t 2) = true := by decide

-- V-SBC1
theorem test_sbc_borrow : goesTo ((machine 0x0200 [0xE9, 0x20] 0x01 []).setA 0x10)
    (fun t => t.a == 0xF0 && t.p == 0xC1 && took t 2) = true := by decide

-- V-SBC3
theorem test_sbc_no_borrow_in : goesTo ((machine 0x0200 [0xE9, 0x10] 0x00 []).setA 0x20)
    (fun t => t.a == 0x10 && t.p == 0x00 && took t 2) = true := by decide

-- V-CMP2
theorem test_cmp_zn_of_register : goesTo ((machine 0x0200 [0xC9, 0x01] 0x00 []).setA 0x00)
    (fun t => t.a == 0x00 && t.p == 0x03 && took t 2) = true := by decide

-- V-CMP1
theorem test_cmp_equal : goesTo ((machine 0x0200 [0xC9, 0x05] 0x00 []).setA 0x05)
    (fun t => t.p == 0x00 && took t 2) = true := by decide

-- V-CMP6
theorem test_cpx : goesTo ((machine 0x0200 [0xE0, 0x10] 0x00 []).setX 0x20)
    (fun t => t.x == 0x20 && t.p == 0x00 && took t 2) = true := by decide

-- V-CMP7
theorem test_cpy : goesTo ((machine 0x0200 [0xC0, 0x10] 0x00 []).setY 0x00)
    (fun t => t.p == 0x03 && took t 2) = true := by decide

-- V-ID1
theorem test_inc_wraps : goesTo (machine 0x0200 [0xE6, 0x40] 0x41 [(0x40, 0xFF)])
    (fun t => t.mem.read 0x40 == 0x00 && t.p == 0x43 && took t 4) = true := by decide

-- V-ID3
theorem test_dec_wraps : goesTo (machine 0x0200 [0xC6, 0x40] 0x41 [(0x40, 0x00)])
    (fun t => t.mem.read 0x40 == 0xFF && t.p == 0xC1 && took t 4) = true := by decide

-- V-ID5
theorem test_inx : goesTo ((machine 0x0200 [0xE8] 0x00 []).setX 0xFF)
    (fun t => t.x == 0x00 && t.p == 0x02 && took t 1) = true := by decide

-- V-ID6
theorem test_dex : goesTo ((machine 0x0200 [0xCA] 0x00 []).setX 0x00)
    (fun t => t.x == 0xFF && t.p == 0x80 && took t 1) = true := by decide

-- V-ID7
theorem test_iny : goesTo ((machine 0x0200 [0xC8] 0x00 []).setY 0x80)
    (fun t => t.y == 0x81 && t.p == 0x80 && took t 1) = true := by decide

-- V-ID7
theorem test_dey : goesTo ((machine 0x0200 [0x88] 0x00 []).setY 0x80)
    (fun t => t.y == 0x7F && t.p == 0x00 && took t 1) = true := by decide

-- V-SH2
theorem test_asl_no_carry_in : goesTo ((machine 0x0200 [0x0A] 0x01 []).setA 0x40)
    (fun t => t.a == 0x80 && t.p == 0x80 && took t 1) = true := by decide

-- V-SH3
theorem test_lsr : goesTo ((machine 0x0200 [0x4A] 0x00 []).setA 0x01)
    (fun t => t.a == 0x00 && t.p == 0x03 && took t 1) = true := by decide

-- V-SH5
theorem test_rol : goesTo ((machine 0x0200 [0x2A] 0x01 []).setA 0x80)
    (fun t => t.a == 0x01 && t.p == 0x01 && took t 1) = true := by decide

-- V-SH7
theorem test_ror_acc_clears_n : goesTo ((machine 0x0200 [0x6A] 0x01 []).setA 0x01)
    (fun t => t.a == 0x80 && t.p == 0x01 && took t 1) = true := by decide

-- V-SH10
theorem test_ror_mem : goesTo (machine 0x0200 [0x6E, 0x00, 0x30] 0x01 [(0x3000, 0x01)])
    (fun t => t.mem.read 0x3000 == 0x80 && t.p == 0x01 && took t 5) = true := by decide

-- V-AM4
theorem test_lda_izx_pointer_wrap :
    goesTo ((machine 0x0200 [0xA1, 0xFE] 0x00 [(0xFF, 0x00), (0x00, 0x31), (0x3100, 0xCD), (0x100, 0x40)]).setX 0x01)
    (fun t => t.a == 0xCD && t.p == 0x80 && took t 5) = true := by decide

-- V-AM5
theorem test_lda_izy_pointer_wrap :
    goesTo ((machine 0x0200 [0xB1, 0xFF] 0x00 [(0xFF, 0x00), (0x00, 0x32), (0x3205, 0xEE), (0x100, 0x40)]).setY 0x05)
    (fun t => t.a == 0xEE && took t 5) = true := by decide

-- V-AM2
theorem test_ldx_zpy_wrap : goesTo ((machine 0x0200 [0xB6, 0x80] 0x00 [(0x7F, 0x11)]).setY 0xFF)
    (fun t => t.x == 0x11 && t.pc == 0x0202 && took t 3) = true := by decide

-- V-LS2
theorem test_ldx_imm : goesTo (machine 0x0200 [0xA2, 0x80] 0x00 [])
    (fun t => t.x == 0x80 && t.p == 0x80 && took t 2) = true := by decide

-- P3
theorem test_ldy_imm : goesTo (machine 0x090A [0xA0, 0xAA] 0x80 [])
    (fun t => t.y == 0xAA && t.p == 0x80 && t.pc == 0x090C && took t 2) = true := by decide

-- V-LS3
theorem test_sta_no_flags : goesTo ((machine 0x0200 [0x85, 0x40] 0x80 [(0x40, 0x55)]).setA 0x00)
    (fun t => t.mem.read 0x40 == 0x00 && t.p == 0x80 && took t 3) = true := by decide

-- R204
theorem test_stx : goesTo ((machine 0x0200 [0x8E, 0x34, 0x12] 0x02 []).setX 0x80)
    (fun t => t.mem.read 0x1234 == 0x80 && t.p == 0x02 && took t 4) = true := by decide

-- R205
theorem test_sty : goesTo (((machine 0x0200 [0x94, 0xFF] 0x80 []).setY 0x07).setX 0x02)
    (fun t => t.mem.read 0x01 == 0x07 && t.p == 0x80 && took t 3) = true := by decide

-- R206
theorem test_tax : goesTo ((machine 0x0200 [0xAA] 0x00 []).setA 0x80)
    (fun t => t.x == 0x80 && t.p == 0x80 && took t 1) = true := by decide

-- R207
theorem test_txa : goesTo ((machine 0x0200 [0x8A] 0x80 []).setA 0x05)
    (fun t => t.a == 0x00 && t.p == 0x02 && took t 1) = true := by decide

-- R208
theorem test_tay : goesTo ((machine 0x0200 [0xA8] 0x00 []).setA 0x80)
    (fun t => t.y == 0x80 && t.p == 0x80 && took t 1) = true := by decide

-- R209
theorem test_tya : goesTo ((machine 0x0200 [0x98] 0x02 []).setY 0x01)
    (fun t => t.a == 0x01 && t.p == 0x00 && took t 1) = true := by decide

-- V-LS5
theorem test_tsx : goesTo ((machine 0x0200 [0xBA] 0x00 []).setSP 0x80)
    (fun t => t.x == 0x80 && t.p == 0x80 && took t 1) = true := by decide

-- V-LS4
theorem test_txs_no_flags : goesTo ((machine 0x0200 [0x9A] 0x00 []).setX 0x00)
    (fun t => t.sp == 0x00 && t.p == 0x00 && took t 1) = true := by decide

-- V-LS6
theorem test_pha_wraps : goesTo (((machine 0x0200 [0x48] 0x00 []).setA 0x99).setSP 0x00)
    (fun t => t.mem.read 0x100 == 0x99 && t.sp == 0xFF && took t 2) = true := by decide

-- V-LS7
theorem test_pla_wraps : goesTo ((machine 0x0200 [0x68] 0x80 [(0x100, 0x00)]).setSP 0xFF)
    (fun t => t.a == 0x00 && t.sp == 0x00 && t.p == 0x02 && took t 2) = true := by decide

-- V-LS8
theorem test_php : goesTo (machine 0x0200 [0x08] 0xC3 [])
    (fun t => t.mem.read 0x1FF == 0xC3 && t.sp == 0xFE && t.p == 0xC3 && took t 2) = true := by decide

-- V-LS9
theorem test_plp : goesTo ((machine 0x0200 [0x28] 0xC3 [(0x1FF, 0x30)]).setSP 0xFE)
    (fun t => t.p == 0x30 && t.sp == 0xFF && took t 2) = true := by decide

-- V-BR7
theorem test_bpl : goesTo (machine 0x0400 [0x10, 0x7F] 0x00 [])
    (fun t => t.pc == 0x0481 && t.p == 0x00 && took t 2) = true := by decide

-- V-BR8
theorem test_bmi_not_taken : goesTo (machine 0x0400 [0x30, 0x7F] 0x00 [])
    (fun t => t.pc == 0x0402 && took t 2) = true := by decide

-- V-BR1
theorem test_bvc : goesTo (machine 0x0300 [0x50, 0xF0] 0x00 [])
    (fun t => t.pc == 0x02F2 && took t 2) = true := by decide

-- R244
theorem test_bvs : goesTo (machine 0x0300 [0x70, 0x10] 0x40 [])
    (fun t => t.pc == 0x0312 && took t 2) = true := by decide

-- V-BR2
theorem test_bcc_wraps : goesTo (machine 0x0000 [0x90, 0x80] 0x00 [])
    (fun t => t.pc == 0xFF82 && took t 2) = true := by decide

-- P3
theorem test_bcs_not_taken : goesTo (machine 0x0908 [0xB0, 0x02] 0x80 [])
    (fun t => t.pc == 0x090A && took t 2) = true := by decide

-- V-BR4
theorem test_bne : goesTo (machine 0x0400 [0xD0, 0xFE] 0x00 [])
    (fun t => t.pc == 0x0400 && took t 2) = true := by decide

-- V-BR3
theorem test_beq_wraps : goesTo (machine 0xFFFE [0xF0, 0x01] 0x02 [])
    (fun t => t.pc == 0x0001 && took t 2) = true := by decide

-- V-BR6
theorem test_beq_not_taken : goesTo (machine 0x0400 [0xF0, 0x10] 0x00 [])
    (fun t => t.pc == 0x0402 && took t 2) = true := by decide

-- V-CT3
theorem test_brk : goesTo ((machine 0x0200 [0x00] 0x00 [(0xFFFE, 0x34), (0xFFFF, 0x12)]).setSP 0x01)
    (fun t => t.mem.read 0x101 == 0x02 && t.mem.read 0x100 == 0x02 && t.mem.read 0x1FF == 0x14 && t.sp == 0xFE && t.pc == 0x1234 && took t 6) =
      true := by decide

-- E7
theorem test_brk_flags : goesTo (machine 0x0400 [0x00] 0x00 [(0xFFFF, 0x07)])
    (fun t => t.mem.read 0x1FF == 0x04 && t.mem.read 0x1FE == 0x02 && t.mem.read 0x1FD == 0x14 && t.p == 0x14 && t.pc == 0x0700 && took t 6) =
      true := by decide

-- V-CT4
theorem test_rti : goesTo ((machine 0x0200 [0x40] 0x00 [(0x1FD, 0xFF), (0x1FF, 0x30)]).setSP 0xFC)
    (fun t => t.p == 0xFF && t.pc == 0x3000 && t.sp == 0xFF && took t 4) = true := by decide

-- V-CT1
theorem test_jsr : goesTo ((machine 0x0200 [0x20, 0x00, 0x30] 0x00 []).setSP 0x00)
    (fun t => t.mem.read 0x100 == 0x02 && t.mem.read 0x1FF == 0x02 && t.sp == 0xFE && t.pc == 0x3000 && took t 5) =
      true := by decide

-- V-CT2
theorem test_rts_wraps : goesTo ((machine 0x0200 [0x60] 0x00 [(0x1FE, 0xFF), (0x1FF, 0xFF)]).setSP 0xFD)
    (fun t => t.pc == 0x0000 && t.sp == 0xFF && took t 3) = true := by decide

-- V-CT6
theorem test_jmp_abs_wraps : goesTo (machine 0xFFFE [0x4C, 0x00, 0x12] 0x00 [])
    (fun t => t.pc == 0x1200 && took t 3) = true := by decide

-- V-CT7
theorem test_jmp_ind : goesTo (machine 0x0200 [0x6C, 0xFF, 0x0A] 0x00 [(0xAFF, 0x00), (0xB00, 0x0C), (0xA00, 0x38)])
    (fun t => t.pc == 0x0C00 && took t 5) = true := by decide

-- V-BIT1
theorem test_bit : goesTo ((machine 0x0200 [0x24, 0x40] 0x01 [(0x40, 0xC0)]).setA 0x01)
    (fun t => t.p == 0xC3 && t.a == 0x01 && took t 3) = true := by decide

-- V-BIT3
theorem test_bit_zero : goesTo ((machine 0x0200 [0x24, 0x40] 0x01 []).setA 0x00)
    (fun t => t.p == 0x03 && took t 3) = true := by decide

-- V-CT8
theorem test_clc : goesTo (machine 0x0200 [0x18] 0x00 [])
    (fun t => t.p == 0x00 && took t 1) = true := by decide

-- V-CT8
theorem test_sec : goesTo (machine 0x0200 [0x38] 0x01 [])
    (fun t => t.p == 0x01 && took t 1) = true := by decide

-- R258
theorem test_cld : goesTo (machine 0x0200 [0xD8] 0xFF [])
    (fun t => t.p == 0xF7 && took t 1) = true := by decide

-- R259
theorem test_sed : goesTo (machine 0x0200 [0xF8] 0x00 [])
    (fun t => t.p == 0x08 && took t 1) = true := by decide

-- R260
theorem test_cli : goesTo (machine 0x0200 [0x58] 0xFF [])
    (fun t => t.p == 0xFB && took t 1) = true := by decide

-- V-CT8
theorem test_sei : goesTo (machine 0x0200 [0x78] 0x00 [])
    (fun t => t.p == 0x04 && took t 1) = true := by decide

-- V-CT8
theorem test_clv : goesTo (machine 0x0200 [0xB8] 0xFF [])
    (fun t => t.p == 0xBF && took t 1) = true := by decide

-- V-AM9
theorem test_nop_at_the_top : goesTo (machine 0xFFFF [0xEA] 0x00 [])
    (fun t => t.pc == 0x0000 && t.p == 0x00 && t.sp == 0xFF && took t 1) = true := by decide

-- V-IL1
theorem test_illegal_permissive : goesTo (machine 0x0300 [0x02, 0xEA] 0x00 [])
    (fun t => t.reports == [.illegalOpcode 0x02 0x0300, .instructionComplete 0x0300 0x02 1] && t.pc == 0x0301 && t.running) =
      true := by decide

/-- The same machine under other parameters. -/
def under (s : State) (c : Config) : State := { s with cfg := c }

-- V-IL2
theorem test_illegal_strict :
    goesTo (under (machine 0x0300 [0x02, 0xEA] 0x00 []) { Config.standard with illegalPolicy := .strict })
    (fun t => t.pc == 0x0301 && t.executed == 1 && !t.running) = true := by decide

/-- A Handshake machine whose driver has `k` calls to make. -/
def shaken (s : State) (k : Option Nat) : State :=
  { s with cfg := { s.cfg with gateMode := .handshake }, driverCalls := k }

-- V-GT1
theorem test_handshake_four_calls : goesTo (shaken (machine 0x0200 [0xE6, 0x40] 0x00 []) (some 4))
    (fun t => t.reports == [.instructionComplete 0x0200 0xE6 4] && t.cycleCount == 0 && t.driverCalls == some 0) = true := by
  decide

-- V-GT1, R331, R321: the CPU stands, counted, in the fourth gated cycle; the read phase is done, the write is not
theorem test_handshake_three_calls : goesTo (shaken (machine 0x0200 [0xE6, 0x40] 0x00 [(0x40, 0x7F)]) (some 3))
    (fun t => t.mem.read 0x40 == 0x7F && t.p == 0x80 && t.pc == 0x0202 && t.cycleCount == 4 && t.reports == [] &&
      t.inFlight == some ⟨.inc (.zp 0x40), 0x0200, 0xE6, 0x00, 3⟩) = true := by decide

/-- The CPU stands inside the first gated cycle of INC 40, before the opcode fetch: no call has come. -/
def waitingInInc : State :=
  { shaken (machine 0x0200 [0xE6, 0x40] 0x00 [(0x40, 0x7F)]) (some 0) with
    cycleCount := 1, inFlight := some ⟨.inc (.zp 0x40), 0x0200, 0xE6, 0x00, 0⟩ }

/-- The same CPU inside the fourth: the read phase is done, the write is not. -/
def waitingToWrite : State :=
  { waitingInInc with
    pc := 0x0202, p := 0x80, cycleCount := 4, inFlight := some ⟨.inc (.zp 0x40), 0x0200, 0xE6, 0x00, 3⟩ }

-- R331: no call comes
theorem test_no_call_no_step : step waitingInInc = .fault .gateStall := rfl

/-- One `start_cycle` of the driver, then a step. -/
def callsThenSteps (s : State) (q : State → Bool) : Bool :=
  match s.hostDo .startCycle with
  | .next t => goesTo t q
  | _ => false

-- R333, R325: one call, one gated cycle; the stop flag is not seen inside the instruction (R331)
theorem test_one_call_one_cycle : callsThenSteps waitingInInc.requestStop
    (fun t => t.pc == 0x0201 && t.cycleCount == 2 && t.running && !t.go && !t.done && HostOp.startCycle.returned t) = true := by
  decide

-- R334: the fourth call completes the instruction
theorem test_the_last_call_completes :
    callsThenSteps waitingToWrite (fun t => t.mem.read 0x40 == 0x80 && t.cycleCount == 0 && t.inFlight == none &&
      t.reports == [.instructionComplete 0x0200 0xE6 4]) = true := by decide

-- V-GT3
theorem test_budget_zero :
    goesTo (under (machine 0x0200 [0xEA] 0x00 []) { Config.standard with maxInstructions := some 0 })
    (fun t => t == under (machine 0x0200 [0xEA] 0x00 []).exitLoop { Config.standard with maxInstructions := some 0 }) =
      true := by decide

-- V-GT4
theorem test_stop_before_the_first_boundary : goesTo (machine 0x0200 [0xEA] 0x00 []).requestStop
    (fun t => t.pc == 0x0200 && t.reports == [] && !t.running) = true := by decide

-- V-GT5
theorem test_reset_vector :
    (State.resetWith Config.standard [(0xFFFD, 0x06)]).pc = 0x0600 ∧ State.reset.sp = 0xFF ∧ State.reset.running = false := by
  decide

/-- The host's operation succeeds and `q` holds after it. -/
def hostGets (op : HostOp) (q : State → Bool) : Bool :=
  match (State.reset.setPC 0x1234).hostDo op with
  | .next t => q t
  | _ => false

-- R43, R26, R27: each accessor writes its own place
theorem test_accessors :
    (hostGets (.writePCL 0x00) (fun t => t == State.reset.setPC 0x1200) &&
      hostGets (.writePCH 0x00) (fun t => t == State.reset.setPC 0x0034) &&
      hostGets (.writePC 0xFFFF) (fun t => t.pc == 0xFFFF) && hostGets (.writeS 0x07) (fun t => t.sp == 0x07) &&
      hostGets (.writeP 0xFF) (fun t => t.p == 0xFF && t.a == 0x00) &&
      hostGets (.writeA 0x80) (fun t => t.a == 0x80 && t.p == 0x00) &&
      hostGets (.writeX 0x80) (fun t => t.x == 0x80 && t.y == 0x00 && t.p == 0x00) &&
      hostGets (.writeY 0x80) (fun t => t.y == 0x80 && t.x == 0x00 && t.p == 0x00) &&
      hostGets (.load 0xFFFF 0x42) (fun t => t.mem == [(0xFFFF, 0x42)])) = true := by decide

-- E1
theorem test_pcl_write : ((State.reset.setPC 0xFFFF).setPCL 0x00).pc = 0xFF00 ∧ ((State.reset.setPC 0x1234).setPCH 0x00).pc = 0x0034 := by
  decide

-- E3
theorem test_check_for_overflow :
    (checkForOverflow 0x7F 0x80 && checkForOverflow 0x80 0x7F && !checkForOverflow 0x00 0x7F && !checkForOverflow 0x80 0xFF) =
      true := by decide

/-! ### The hypotheses of the statements are met -/

theorem witness_DecodeOfEncodeIsTheInstruction : (Instr.jmp (.ind 0xFFFF)).wellFormed = true := by decide

theorem witness_EncodeOfDecodeIsTheBytes :
    decode [0x6C, 0xFF, 0xFF, 0x00] = .ok (.jmp (.ind 0xFFFF), [0x00]) := rfl

/-- The immediate clause, where the operand byte wraps to address 0 (V-AM8). -/
theorem witness_OperandIsTheByteTheModeGives :
    (machine 0xFFFF [0xA9, 0x42] 0x00 []).instrAtPC = .lda (.imm 0x42) ∧
      (machine 0x0000 [0xC0, 0x00] 0x00 []).instrAtPC = .cpy (.imm 0x00) := by decide

/-- The gate passes every number of cycles an instruction has, both of an AlwaysOpen machine and of a Handshake machine whose
driver makes just the calls needed: the hypothesis of every result statement. -/
theorem witness_gate :
    (∀ n ∈ [1, 2, 3, 4, 5, 6], (State.reset.gatedCycles n).1 = n) ∧
      ∀ n ∈ [1, 2, 3, 4, 5, 6], (shaken .reset (some n)).inFlight = none ∧ ((shaken .reset (some n)).gatedCycles n).1 = n := by
  decide

theorem witness_LogicalInstructionsWriteAZN :
    ∃ (o : ReadOperand) (s g : State), s.passes o.cycles g ∧
      (Instr.eor o, s.a ^^^ s.operand o) ∈
        [(Instr.ora o, s.a ||| s.operand o), (.and o, s.a &&& s.operand o), (.eor o, s.a ^^^ s.operand o)] :=
  ⟨.mem (.izy 0xFF), .reset, _, ⟨rfl, rfl⟩, by simp⟩

theorem witness_AdcAddsMemoryAndCarry :
    (∃ g, (machine 0x0200 [0x69, 0xFF] 0x01 []).passes (ReadOperand.imm 0xFF).cycles g) ∧
      ∃ g, State.reset.passes (ReadOperand.mem (.absx 0xFFFF)).cycles g :=
  ⟨⟨_, rfl, rfl⟩, ⟨_, rfl, rfl⟩⟩

theorem witness_SbcSubtractsWithoutBorrowIn :
    (∃ g, (machine 0x0200 [0xE9, 0xFF] 0x01 []).passes (ReadOperand.imm 0xFF).cycles g) ∧
      ∃ g, State.reset.passes (ReadOperand.mem (.izx 0xFF)).cycles g :=
  ⟨⟨_, rfl, rfl⟩, ⟨_, rfl, rfl⟩⟩

theorem witness_ComparesTakeZNFromTheRegister :
    ∃ (o : ReadOperand) (s g : State), s.passes o.cycles g ∧
      (Instr.cpy o, s.y) ∈ [(Instr.cmp o, s.a), (.cpx o, s.x), (.cpy o, s.y)] :=
  ⟨.imm 0xFF, .reset, _, ⟨rfl, rfl⟩, by simp⟩

theorem witness_BitTestsMemoryAgainstA :
    (∃ g, State.reset.passes (Instr.bit (.zp 0xFF)).cycles g) ∧
      ∃ g, State.reset.passes (Instr.bit (.abs 0xFFFF)).cycles g :=
  ⟨⟨_, rfl, rfl⟩, ⟨_, rfl, rfl⟩⟩

theorem witness_IncDecMemoryWriteOneByte :
    ∃ (m : MemOperand) (s g : State), s.passes (m.resolverReads + 3) g ∧
      (Instr.dec m, s.mem.read (s.ea m).toNat - 1) ∈
        [(Instr.inc m, s.mem.read (s.ea m).toNat + 1), (.dec m, s.mem.read (s.ea m).toNat - 1)] :=
  ⟨.absx 0xFFFF, .reset, _, ⟨rfl, rfl⟩, by simp⟩

theorem witness_IncDecRegistersWrap :
    ∃ s g : State, s.passes 1 g ∧
      (Instr.inx, s.x + 1) ∈ [(Instr.inx, s.x + 1), (.dex, s.x - 1)] ∧
      (Instr.dey, s.y - 1) ∈ [(Instr.iny, s.y + 1), (.dey, s.y - 1)] :=
  ⟨State.reset.setX 0xFF, _, ⟨rfl, rfl⟩, by simp, by simp⟩

theorem witness_LeftShiftsMoveBitSevenToCarry :
    ∃ (o : ShiftOperand) (s g : State), s.passes o.cycles g ∧
      (Instr.rol o, getFlag s.p .c) ∈ [(Instr.asl o, false), (.rol o, getFlag s.p .c)] :=
  ⟨.mem (.absx 0xFFFF), State.reset.setP 0x01, _, ⟨rfl, rfl⟩, by simp⟩

theorem witness_RightShiftsClearN :
    ∃ (o : ShiftOperand) (s g : State), s.passes o.cycles g ∧
      (Instr.ror o, getFlag s.p .c) ∈ [(Instr.lsr o, false), (.ror o, getFlag s.p .c)] :=
  ⟨.acc, State.reset.setP 0x01, _, ⟨rfl, rfl⟩, by simp⟩

theorem witness_LoadsWriteTheirRegisterZN :
    ∃ (o : ReadOperand) (s g : State), s.passes o.cycles g := ⟨.mem (.zpy 0xFF), .reset, _, rfl, rfl⟩

theorem witness_StoresWriteTheirRegisterOnly :
    ∃ (m : MemOperand) (s g : State), s.passes (m.resolverReads + 2) g := ⟨.izx 0xFF, .reset, _, rfl, rfl⟩

theorem witness_TransfersCopyOneRegister : ∃ s g : State, s.passes 1 g := ⟨.reset, _, rfl, rfl⟩

/-- S at the wrap. -/
theorem witness_PushesWriteBelowTheStackTop : ∃ s g : State, s.sp = 0x00 ∧ s.passes 2 g :=
  ⟨State.reset.setSP 0x00, _, rfl, rfl, rfl⟩

theorem witness_PullsReadAboveTheStackTop : ∃ s g : State, s.sp = 0xFF ∧ s.passes 2 g :=
  ⟨.reset, _, rfl, rfl, rfl⟩

theorem witness_PlaAfterPhaRestoresAAndS :
    ∃ s t u v : State, s.inFlight = none ∧ exec .pha s = .next t ∧ t.inFlight = none ∧ u.inFlight = none ∧ u.sp = t.sp ∧
      u.mem.read (stackAddr s.sp).toNat = t.mem.read (stackAddr s.sp).toNat ∧ exec .pla u = .next v ∧ v.inFlight = none :=
  ⟨(State.reset.setA 0x5C).setSP 0x00, _, _, _, rfl, rfl, rfl, rfl, rfl, rfl, rfl, rfl⟩

/-- A branch taken and one not taken, with the most negative offset. -/
theorem witness_BranchesWritePCOnly :
    ∃ (b : Byte) (s g : State), s.passes 2 g ∧ (Instr.bne b, !getFlag s.p .z) = (.bne b, false) ∧
      (Instr.beq b, getFlag s.p .z) = (.beq b, true) :=
  ⟨0x80, State.reset.setP 0x02, _, ⟨rfl, rfl⟩, rfl, rfl⟩

theorem witness_BrkTakesTheTrap : ∃ s g : State, s.passes 6 g ∧ s.sp = 0x01 :=
  ⟨State.reset.setSP 0x01, _, ⟨rfl, rfl⟩, rfl⟩

theorem witness_RtiRestoresPAndPC : ∃ s g : State, s.passes 4 g ∧ s.sp = 0xFE :=
  ⟨State.reset.setSP 0xFE, _, ⟨rfl, rfl⟩, rfl⟩

theorem witness_RtiReturnsFromBrk :
    ∃ s t u v : State, s.inFlight = none ∧ exec .brk s = .next t ∧ t.inFlight = none ∧ u.inFlight = none ∧ u.sp = t.sp ∧
      (∀ k ∈ [s.sp, s.sp - 1, s.sp - 2], u.mem.read (stackAddr k).toNat = t.mem.read (stackAddr k).toNat) ∧
      exec .rti u = .next v ∧ v.inFlight = none :=
  ⟨State.reset.setSP 0x01, _, _, _, rfl, rfl, rfl, rfl, rfl, fun _ _ => rfl, rfl, rfl⟩

theorem witness_JsrPushesTheReturnAddress : ∃ s g : State, s.passes 5 g ∧ s.sp = 0x00 :=
  ⟨State.reset.setSP 0x00, _, ⟨rfl, rfl⟩, rfl⟩

theorem witness_RtsPullsAndIncrements : ∃ s g : State, s.passes 3 g ∧ s.sp = 0xFF :=
  ⟨.reset, _, ⟨rfl, rfl⟩, rfl⟩

theorem witness_RtsReturnsFromJsr :
    ∃ (w : Addr) (s t u v : State),
      s.inFlight = none ∧ exec (.jsr w) s = .next t ∧ t.inFlight = none ∧ u.inFlight = none ∧ u.sp = t.sp ∧
      (∀ k ∈ [s.sp, s.sp - 1], u.mem.read (stackAddr k).toNat = t.mem.read (stackAddr k).toNat) ∧
      exec .rts u = .next v ∧ v.inFlight = none :=
  ⟨0xFFFF, State.reset.setSP 0x00, _, _, _, rfl, rfl, rfl, rfl, rfl, fun _ _ => rfl, rfl, rfl⟩

theorem witness_JmpGoesToTheTarget :
    ∃ s g g' : State, s.passes 3 g ∧ s.passes 5 g' :=
  ⟨.reset, _, _, ⟨rfl, rfl⟩, ⟨rfl, rfl⟩⟩

theorem witness_FlagInstructionsWriteOneBit :
    ∃ s g : State, s.passes 1 g ∧ s.p = 0xFF := ⟨State.reset.setP 0xFF, _, ⟨rfl, rfl⟩, rfl⟩

theorem witness_IllegalOpcodeReportsOnly : ∃ s g : State, s.passes 1 g := ⟨.reset, _, rfl, rfl⟩

theorem witness_OnlyTheNamedFlagsChange :
    ∃ (i : Instr) (s t : State) (f : Flag), exec i s = .next t ∧ f ∉ i.flagsWritten :=
  ⟨.adc (.imm 0xFF), .reset, _, .d, rfl, by decide⟩

/-- An instruction for each clause: it leaves A, X, Y or S. -/
theorem witness_OnlyTheNamedRegistersChange :
    (Instr.inx.writesA = false ∧ Instr.pla.writesX = false ∧ Instr.dex.writesY = false ∧ Instr.tsx.writesS = false) ∧
      ∀ i ∈ [Instr.inx, .pla, .dex, .tsx], ∃ t, exec i State.reset = .next t := by
  refine ⟨by decide, ?_⟩
  simp only [List.mem_cons, List.not_mem_nil, or_false]
  rintro i (rfl | rfl | rfl | rfl) <;> exact ⟨_, rfl⟩

theorem witness_OnlyTheStoredBytesChange :
    (Instr.sta (.zp 0x40)).storesAt State.reset = [0x0040] ∧ (0x0041 ≠ (0x0040 : Addr).toNat) ∧
      ∃ t, exec (.sta (.zp 0x40)) State.reset = .next t := ⟨rfl, by decide, _, rfl⟩

/-- Each clause, for each of the four: BRK and JSR with the pushes wrapping, PHA and PHP; and a JSR that stands before its last
push. -/
theorem witness_PushesStayInPageOne :
    (∀ i ∈ [Instr.pha, .php, .brk, .jsr 0xFFFF], ∃ t, exec i (State.reset.setSP 0x00) = .next t ∧ t.inFlight = none) ∧
      ∃ t f, exec (.jsr 0xFFFF) (shaken .reset (some 4)) = .next t ∧ t.inFlight = some f := by
  refine ⟨?_, _, _, rfl, rfl⟩
  simp only [List.mem_cons, List.not_mem_nil, or_false]
  rintro i (rfl | rfl | rfl | rfl) <;> exact ⟨_, rfl, rfl⟩

theorem witness_InstructionsLeaveTheLoopStateAlone :
    ∃ (i : Instr) (s t : State), exec i s = .next t ∧ ∀ op, i ≠ .illegal op := ⟨.rti, .reset, _, rfl, by simp⟩

/-- Each clause: an instruction that completes, and one whose driver stops one call short. -/
theorem witness_GatedCyclesAreTheTables :
    (∃ (i : Instr) (s t : State), s.inFlight = none ∧ exec i s = .next t ∧ t.inFlight = none) ∧
      ∃ (i : Instr) (s t : State) (f : InFlight), s.inFlight = none ∧ exec i s = .next t ∧ t.inFlight = some f :=
  ⟨⟨.brk, .reset, _, rfl, rfl, rfl⟩, .brk, shaken .reset (some 5), _, _, rfl, rfl, rfl⟩

theorem witness_UnreadFlagsInfluenceNothing :
    ∃ (i : Instr) (s t : State) (f : Flag),
      f ∈ [Flag.u, .b, .d, .i] ∧ i ≠ .php ∧ i ≠ .brk ∧ exec i s = .next t ∧ t.inFlight = none :=
  ⟨.adc (.imm 0x01), State.reset.setP 0x08, _, .d, by decide, by decide, by decide, rfl, rfl⟩

theorem witness_AlwaysOpenPassesEveryCycle : State.reset.cfg.gateMode = .alwaysOpen ∧ State.reset.inFlight = none := ⟨rfl, rfl⟩

/-- A driver with exactly the calls needed, and one that never stops. -/
theorem witness_HandshakePassesOneCycleACall :
    (shaken .reset (some 6)).handshakeAtRest = true ∧ (∀ k, (shaken .reset (some 6)).driverCalls = some k → 6 ≤ k) ∧
      (shaken .reset none).handshakeAtRest = true ∧ ∀ k, (shaken .reset none).driverCalls = some k → 6 ≤ k := by
  refine ⟨rfl, ?_, rfl, ?_⟩ <;> simp [shaken]

theorem witness_StallWhenTheDriverStops :
    (shaken .reset (some 5)).handshakeAtRest = true ∧ (shaken .reset (some 5)).driverCalls = some 5 ∧ 5 < Instr.brk.cycles := by
  decide

/-- An instruction taken up at its beginning, and one where it stands. -/
theorem witness_TheGateNeverChangesTheResult :
    (∃ (i : Instr) (s t : State), s.handshakeAtRest = true ∧ exec i s = .next t ∧ t.inFlight = none) ∧
      ∃ t, exec (.inc (.zp 0x40)) (waitingInInc.withCalls (some 4)) = .next t ∧ t.inFlight = none :=
  ⟨⟨.brk, shaken .reset (some 6), _, rfl, rfl, rfl⟩, _, rfl, rfl⟩

/-- A stall in the first cycle, before the opcode fetch, and one in the last. -/
theorem witness_StalledCpuResumesWhereItStands :
    (shaken .reset none).handshakeAtRest = true ∧ 0 < Instr.brk.cycles ∧ 5 < Instr.brk.cycles ∧
      (∃ t, exec .brk ((shaken .reset none).withCalls (some 0)) = .next t) ∧
      (∃ t, exec .brk ((shaken .reset none).withCalls (some 5)) = .next t) ∧ (some 1 : Option Nat) ≠ some 0 ∧
      (none : Option Nat) ≠ some 0 := by
  refine ⟨rfl, by decide, by decide, ⟨_, rfl⟩, ⟨_, rfl⟩, by decide, by decide⟩

/-- Each clause: at a boundary, an instruction that wraps to the bottom of memory; and one under way, the stop flag set. -/
theorem witness_StepRunsTheDecodedInstruction :
    ((machine 0xFFFE [0x4C, 0x00, 0x12] 0x00 []).running = true ∧
      (machine 0xFFFE [0x4C, 0x00, 0x12] 0x00 []).inFlight = none ∧
      (machine 0xFFFE [0x4C, 0x00, 0x12] 0x00 []).atLoopExit = false ∧
      decode (machine 0xFFFE [0x4C, 0x00, 0x12] 0x00 []).bytesAtPC = .ok (.jmp (.abs 0x1200), [])) ∧
    waitingInInc.requestStop.running = true ∧ waitingInInc.requestStop.atLoopExit = true ∧
      ∃ f, waitingInInc.requestStop.inFlight = some f ∧ f.instr = .inc (.zp 0x40) :=
  ⟨⟨rfl, rfl, rfl, rfl⟩, rfl, rfl, _, rfl, rfl⟩

/-- Each clause: an instruction that waits, one complete from its beginning, one complete from where it stood. -/
theorem witness_CompletionReportsAndCounts :
    (∃ f, waitingInInc.inFlight = some f) ∧ State.reset.inFlight = none ∧
      ∃ f, waitingInInc.inFlight = some f ∧ (0x0200 : Addr) = f.opAddr ∧ (0xE6 : Byte) = f.op :=
  ⟨⟨_, rfl⟩, rfl, _, rfl, rfl, rfl⟩

/-- Each clause: no run; a stop request; a budget reached; a step that goes on; a step inside an instruction with the stop
flag set; a step that ends under the strict policy. -/
theorem witness_LoopExitsAtTheBoundaryOnly :
    State.reset.running = false ∧
    ((machine 0 [] 0 []).requestStop.running = true ∧ (machine 0 [] 0 []).requestStop.inFlight = none ∧
      (machine 0 [] 0 []).requestStop.stopRequested = true) ∧
    ((under (machine 0 [] 0 []) { Config.standard with maxInstructions := some 0 }).running = true ∧
      (under (machine 0 [] 0 []) { Config.standard with maxInstructions := some 0 }).cfg.maxInstructions = some 0) ∧
    goesTo (under (machine 0 [0xEA] 0 []) { Config.standard with maxInstructions := some 1 }) (fun t => t.running) = true ∧
    goesTo (waitingInInc.withCalls (some 4)).requestStop (fun t => t.running) = true ∧
    goesTo (under (machine 0 [0xFF] 0 []) { Config.standard with illegalPolicy := .strict }) (fun t => !t.running) = true := by
  decide

theorem witness_IllegalOpcodeStep :
    (machine 0xFFFF [0xFF] 0x00 []).running = true ∧ (machine 0xFFFF [0xFF] 0x00 []).atLoopExit = false ∧
      (machine 0xFFFF [0xFF] 0x00 []).cycleCount = 0 ∧ (machine 0xFFFF [0xFF] 0x00 []).instrAtPC = .illegal 0xFF ∧
      ∃ g, (machine 0xFFFF [0xFF] 0x00 []).passes 1 g := ⟨rfl, rfl, rfl, rfl, _, rfl, rfl⟩

theorem witness_NotImplementedIsNeverRaised :
    ∃ s t : State, step s = .next t ∧ ∀ op, s.currentInstr ≠ .illegal op := by
  refine ⟨machine 0x0200 [0xEA] 0x00 [], _, rfl, ?_⟩
  intro op h
  have nop : (machine 0x0200 [0xEA] 0x00 []).currentInstr = .nop := rfl
  exact nomatch nop.symm.trans h

/-- A state in a run behind a Handshake gate with its driver inside `start_cycle`, and one with the CPU inside `enter_cycle`,
and their steps. -/
theorem witness_StepKeepsTheInvariant :
    (∃ s t : State, s.inv = true ∧ s.go = true ∧ step s = .next t) ∧
      ∃ s t : State, s.inv = true ∧ s.inFlight.isSome = true ∧ step s = .next t :=
  ⟨⟨{ shaken (machine 0x0200 [0xE6, 0x40] 0x00 []) (some 3) with go := true, driverWaiting := true }, _, rfl, rfl, rfl⟩,
    waitingInInc.withCalls (some 2), _, rfl, rfl, rfl⟩

theorem witness_ResetHasTheInvariant : Memory.wf [(0x0000, 0x01), (0xFFFF, 0xFF)] = true := by decide

theorem witness_HostKeepsTheInvariant :
    ∃ (op : HostOp) (s t : State), s.inv = true ∧ s.hostDo op = .next t := ⟨.load 0xFFFF 0x00, .reset, _, rfl, rfl⟩

/-- S at its wrap, and another state with the byte and S as the push left them. -/
theorem witness_PushAndPullMoveTheStackTop :
    ∃ (s t : State) (v : Byte), s.sp = 0x00 ∧ t ≠ s.push v ∧ t.sp = (s.push v).sp ∧
      t.mem.read (0x100 + s.sp.toNat) = (s.push v).mem.read (0x100 + s.sp.toNat) :=
  ⟨State.reset.setSP 0x00, ((State.reset.setSP 0x00).push 0x42).setA 0x01, 0x42, rfl, by decide, rfl, rfl⟩

theorem witness_ResetLeavesTheStatedValues : (machine 0x1234 [0xEA] 0xFF []).exitLoop.running = false := rfl

/-- Each clause: the CPU outside `enter_cycle`; inside the first cycle of an instruction; inside its last. -/
theorem witness_StartCycleStepsOneGatedCycle :
    ((shaken .reset (some 0)).cfg.gateMode = .handshake ∧ (shaken .reset (some 0)).go = false ∧
      (shaken .reset (some 0)).done = false ∧ (shaken .reset (some 0)).driverWaiting = false ∧
      (shaken .reset (some 0)).driverCalls = some 0 ∧ (shaken .reset (some 0)).inFlight = none) ∧
    waitingInInc.cfg.gateMode = .handshake ∧ waitingInInc.go = false ∧ waitingInInc.done = false ∧
      waitingInInc.driverWaiting = false ∧ waitingInInc.driverCalls = some 0 ∧ waitingInInc.running = true ∧
      (∃ f, waitingInInc.inFlight = some f ∧ f.passed + 1 < f.instr.cycles) ∧
      (∃ f, waitingToWrite.inFlight = some f ∧ f.passed + 1 = f.instr.cycles) ∧ waitingToWrite.running = true ∧
      waitingToWrite.driverCalls = some 0 :=
  ⟨⟨rfl, rfl, rfl, rfl, rfl, rfl⟩, rfl, rfl, rfl, rfl, rfl, rfl, ⟨_, rfl, by decide⟩, ⟨_, rfl, rfl⟩, rfl, rfl⟩

theorem witness_AccessorsWriteOnePlaceExactly : State.reset.running = false ∧ (machine 0 [] 0 []).running = true := ⟨rfl, rfl⟩

theorem witness_HostStartsAndStops : State.reset.running = false ∧ (machine 0 [] 0 []).running = true := ⟨rfl, rfl⟩

end Sys2Proof.Tests
end

section
/-! The stack operations: `Push` and `Pull` as one state each, and the round trip between them (20_memory.md R67, R68). -/

namespace Sys2Proof.Machine

/-- Raising a byte is adding one modulo 256. -/
theorem byte_add_one (b : Byte) : b + 1 = BitVec.ofNat 8 ((b.toNat + 1) % 256) := by
  apply BitVec.eq_of_toNat_eq
  simp [BitVec.toNat_add]

/-- Lowering a byte is adding 255 modulo 256: 0x00 wraps to 0xFF. -/
theorem byte_sub_one (b : Byte) : b - 1 = BitVec.ofNat 8 ((b.toNat + 255) % 256) := by
  apply BitVec.eq_of_toNat_eq
  simp [BitVec.toNat_sub, Nat.add_comm]

/-- `Pull` reads at the raised S and writes S alone (R68). -/
theorem State.pull_eq (s : State) :
    s.pull = (s.mem.read (stackAddr (s.sp + 1)).toNat, { s with sp := s.sp + 1 }) := rfl

/-- Once S is as a push left it, a pull reads the byte at the S before the push and restores that S (R68). -/
theorem State.pull_of_sp_eq_push {s t : State} {v : Byte} (hsp : t.sp = (s.push v).sp) :
    t.pull = (t.mem.read (stackAddr s.sp).toNat, { t with sp := s.sp }) := by
  have hraised : t.sp + 1 = s.sp := by rw [hsp, State.push_eq, BitVec.sub_add_cancel]
  rw [State.pull_eq, hraised]

/-- The byte at the old S after a push is the one pushed (R67). -/
theorem State.read_push_same (s : State) (v : Byte) : (s.push v).mem.read (stackAddr s.sp).toNat = v := by
  rw [State.push_eq, Memory.read_write_same]

/-- Settles O46: the two equations are the model's with page 1 and S in natural numbers; in the round trip the pull raises S to
where the push wrote. -/
theorem pushAndPullMoveTheStackTop : Obligations.PushAndPullMoveTheStackTop := by
  intro s v
  refine ⟨?_, ?_, fun t hsp hbyte => ?_⟩
  · rw [State.push_eq, stackAddr_toNat, byte_sub_one]
  · have hraised : (s.sp + 1).toNat = (s.sp.toNat + 1) % 256 := BitVec.toNat_add s.sp 1
    rw [State.pull_eq, stackAddr_toNat, hraised, byte_add_one]
  · rw [← stackAddr_toNat, State.read_push_same] at hbyte
    rw [State.pull_of_sp_eq_push hsp]
    exact ⟨hbyte, rfl⟩

end Sys2Proof.Machine
end

section
/-! Logic, arithmetic and compare (41_logical_arith_compare.md): each flag computation as the flags it writes, each instruction
as the next state it answers where the gate passes its cycles. -/

namespace Sys2Proof.Machine

/-! ### The flags each computation writes -/

/-- `setZN` writes Z and N (R39). -/
theorem flagsBecome_setZN (p v : Byte) : FlagsBecome p (setZN p v) [(.z, v == 0), (.n, v.getLsbD 7)] := by
  intro f
  cases f <;> simp [setZN, flagAfter]

/-- An addition or subtraction writes C, V, Z and N (R146, R147). -/
theorem flagsBecome_arithFlags (p old r : Byte) (carry : Bool) :
    FlagsBecome p (arithFlags p old r carry)
      [(.c, carry), (.v, old.getLsbD 7 != r.getLsbD 7), (.z, r == 0), (.n, r.getLsbD 7)] := by
  intro f
  cases f <;> simp [arithFlags, setZN, checkForOverflow, flagAfter]

/-- The difference of two bytes is negative exactly on an unsigned borrow (R147, R148). -/
theorem subDiff_neg_iff (a m : Byte) : subDiff a m < 0 ↔ a.toNat < m.toNat := by
  rw [subDiff]
  omega

/-- A comparison writes C on borrow, and Z and N from the register (R148 to R150). -/
theorem flagsBecome_compareFlags (p reg m : Byte) :
    FlagsBecome p (compareFlags p reg m)
      [(.c, decide (reg.toNat < m.toNat)), (.z, reg == 0), (.n, reg.getLsbD 7)] := by
  intro f
  cases f <;> simp [compareFlags, setZN, subDiff_neg_iff, flagAfter]

/-! ### The results -/

/-- The byte of an integer sum is that of the sum modulo 256 (R146). -/
theorem byte_ofNat_mod (n : Nat) : BitVec.ofNat 8 (n % 256) = BitVec.ofNat 8 n := by
  apply BitVec.eq_of_toNat_eq
  simp

/-- The byte of the integer difference is the difference of the bytes (R147). -/
theorem byte_ofInt_subDiff (a m : Byte) : BitVec.ofInt 8 (subDiff a m) = a - m := by
  rw [subDiff]
  bv_omega

/-! ### The instructions -/

/-- A reading instruction whose cycles the gate passes does its work on the operand, with PC past its bytes. -/
theorem State.pace_readCycles (s g : State) {o : ReadOperand} {i : Instr} (work : Byte → Cycle) (hg : s.passes o.cycles g)
    (hi : i.cycles = o.cycles) :
    s.pace i (readCycles o work) =
      .next { (work (s.operand o) (s.advance (Instr.ora o).length)).withGate g with
        cycleCount := s.cycleCount + i.cycles, inFlight := s.inFlight } := by
  rw [State.pace_past (hi ▸ hg) ((readCycles_length o work).trans hi.symm), State.run_readCycles]

section
variable {s g : State} {o : ReadOperand} (hg : s.passes o.cycles g)
include hg

/-- ORA's next state (R143). -/
theorem exec_ora : exec (.ora o) s = .next { s.past (.ora o) g with
    a := s.a ||| s.operand o, p := setZN s.p (s.a ||| s.operand o) } :=
  State.pace_readCycles s g _ hg rfl

/-- AND's next state (R144). -/
theorem exec_and : exec (.and o) s = .next { s.past (.and o) g with
    a := s.a &&& s.operand o, p := setZN s.p (s.a &&& s.operand o) } :=
  State.pace_readCycles s g _ hg rfl

/-- EOR's next state (R145). -/
theorem exec_eor : exec (.eor o) s = .next { s.past (.eor o) g with
    a := s.a ^^^ s.operand o, p := setZN s.p (s.a ^^^ s.operand o) } :=
  State.pace_readCycles s g _ hg rfl

/-- ADC's next state (R146). -/
theorem exec_adc : exec (.adc o) s =
    let sum := adcSum s.a (s.operand o) (getFlag s.p .c)
    .next { s.past (.adc o) g with
      a := BitVec.ofNat 8 sum, p := arithFlags s.p s.a (BitVec.ofNat 8 sum) (decide (sum > 0xFF)) } :=
  State.pace_readCycles s g _ hg rfl

/-- SBC's next state (R147), its result and borrow taken from the two bytes. -/
theorem exec_sbc : exec (.sbc o) s = .next { s.past (.sbc o) g with
    a := s.a - s.operand o
    p := arithFlags s.p s.a (s.a - s.operand o) (decide (s.a.toNat < (s.operand o).toNat)) } := by
  rw [← byte_ofInt_subDiff, ← decide_eq_decide.2 (subDiff_neg_iff s.a (s.operand o))]
  exact State.pace_readCycles s g _ hg rfl

/-- CMP's next state (R148). -/
theorem exec_cmp : exec (.cmp o) s = .next { s.past (.cmp o) g with p := compareFlags s.p s.a (s.operand o) } :=
  State.pace_readCycles s g _ hg rfl

/-- CPX's next state (R149). -/
theorem exec_cpx : exec (.cpx o) s = .next { s.past (.cpx o) g with p := compareFlags s.p s.x (s.operand o) } :=
  State.pace_readCycles s g _ hg rfl

/-- CPY's next state (R150). -/
theorem exec_cpy : exec (.cpy o) s = .next { s.past (.cpy o) g with p := compareFlags s.p s.y (s.operand o) } :=
  State.pace_readCycles s g _ hg rfl

end

/-! ### The statements -/

/-- Settles O8: the opcodes by looking them up; the result of each of the three with the flags of `setZN`. -/
theorem logicalInstructionsWriteAZN : Obligations.LogicalInstructionsWriteAZN := by
  refine ⟨fun _ _ => rfl, fun _ _ => rfl, fun _ _ => rfl, fun o s g i r hg hi => ?_⟩
  simp only [List.mem_cons, List.not_mem_nil, or_false, Prod.mk.injEq] at hi
  obtain ⟨rfl, rfl⟩ | ⟨rfl, rfl⟩ | ⟨rfl, rfl⟩ := hi
  · exact ⟨_, flagsBecome_setZN _ _, exec_ora hg⟩
  · exact ⟨_, flagsBecome_setZN _ _, exec_and hg⟩
  · exact ⟨_, flagsBecome_setZN _ _, exec_eor hg⟩

/-- Settles O9: ADC's next state, the byte of the sum being the sum modulo 256. -/
theorem adcAddsMemoryAndCarry : Obligations.AdcAddsMemoryAndCarry := by
  refine ⟨fun _ _ => rfl, fun o s g hg => ?_⟩
  intro sum r
  have hr : r = BitVec.ofNat 8 sum := byte_ofNat_mod sum
  rw [hr]
  exact ⟨_, flagsBecome_arithFlags _ _ _ _, exec_adc hg⟩

/-- Settles O10: SBC's next state, which has no term for the old C. -/
theorem sbcSubtractsWithoutBorrowIn : Obligations.SbcSubtractsWithoutBorrowIn :=
  ⟨fun _ _ => rfl, fun _ _ _ hg => ⟨_, flagsBecome_arithFlags _ _ _ _, exec_sbc hg⟩⟩

/-- Settles O11: each comparison's next state, with the flags of its own register. -/
theorem comparesTakeZNFromTheRegister : Obligations.ComparesTakeZNFromTheRegister := by
  refine ⟨fun _ _ => rfl, fun _ _ => rfl, fun _ _ => rfl, fun o s g i reg hg hi => ?_⟩
  simp only [List.mem_cons, List.not_mem_nil, or_false, Prod.mk.injEq] at hi
  obtain ⟨rfl, rfl⟩ | ⟨rfl, rfl⟩ | ⟨rfl, rfl⟩ := hi
  · exact ⟨_, flagsBecome_compareFlags _ _ _, exec_cmp hg⟩
  · exact ⟨_, flagsBecome_compareFlags _ _ _, exec_cpx hg⟩
  · exact ⟨_, flagsBecome_compareFlags _ _ _, exec_cpy hg⟩

end Sys2Proof.Machine
end

section
/-! Increment, decrement and shift (42_incdec_shift.md): the flags and results of the two shift directions, then each instruction
as the next state it answers where the gate passes its cycles. -/

namespace Sys2Proof.Machine

/-! ### The flags each computation writes -/

/-- A left shift writes C from the bit shifted out, and Z and N from the result (R177, R179). -/
theorem flagsBecome_leftShiftFlags (p r : Byte) (out : Bool) :
    FlagsBecome p (leftShiftFlags p r out) [(.c, out), (.z, r == 0), (.n, r.getLsbD 7)] := by
  intro f
  cases f <;> simp [leftShiftFlags, setZN, flagAfter]

/-- A right shift writes C from the bit shifted out, Z from the result, and N as 0 (R178, R180). -/
theorem flagsBecome_rightShiftFlags (p r : Byte) (out : Bool) :
    FlagsBecome p (rightShiftFlags p r out) [(.c, out), (.z, r == 0), (.n, false)] := by
  intro f
  cases f <;> simp [rightShiftFlags, flagAfter]

/-! ### The results -/

/-- A left shift doubles modulo 256 and adds the bit shifted in, which meets no bit of the doubled byte (R177, R179). -/
theorem shiftLeft_fst (cin : Bool) (v p : Byte) :
    (shiftLeft cin v p).1 = BitVec.ofNat 8 ((2 * v.toNat + cin.toNat) % 256) := by
  have hdisjoint : (v <<< 1) &&& (BitVec.ofBool cin).setWidth 8 = 0#8 := by
    ext i hi
    cases i with
    | zero => simp
    | succ i => simp
  rw [shiftLeft, ← BitVec.add_eq_or_of_and_eq_zero _ _ hdisjoint]
  apply BitVec.eq_of_toNat_eq
  cases cin <;> simp [Nat.shiftLeft_eq, Nat.mul_comm]

/-- A right shift halves and puts the bit shifted in at bit 7, which the halved byte has clear (R178, R180). -/
theorem shiftRight_fst (cin : Bool) (v p : Byte) :
    (shiftRight cin v p).1 = BitVec.ofNat 8 (v.toNat / 2 + 128 * cin.toNat) := by
  have hdisjoint : (v >>> 1) &&& ((BitVec.ofBool cin).setWidth 8 <<< 7) = 0#8 := by
    ext i hi
    obtain rfl | hlow : i = 7 ∨ i < 7 := by omega
    · simp
    · simp [hlow]
  rw [shiftRight, ← BitVec.add_eq_or_of_and_eq_zero _ _ hdisjoint]
  apply BitVec.eq_of_toNat_eq
  cases cin with
  | false => simp [Nat.shiftRight_one]; omega
  | true => simp [Nat.shiftRight_one]

/-! ### The instructions -/

/-- At an instruction's beginning, P as the instruction found it is P. -/
theorem State.foundP_of_none {s : State} (h : s.inFlight = none) : s.foundP = s.p := by
  rw [State.foundP, h]

section
variable {s g : State} {i : Instr}

/-- A read-modify-write of memory whose cycles the gate passes writes its result back and P, with PC past its bytes (R170). -/
theorem State.pace_modifyCycles {m : MemOperand} (f : Byte → Byte → Byte × Byte) (hg : s.passes (m.resolverReads + 3) g)
    (hi : i.cycles = m.resolverReads + 3) (hl : i.length = 1 + m.bytes.length) :
    s.pace i (modifyCycles m s.foundP f) =
      let out := f (s.mem.read (s.ea m).toNat) s.p
      .next { s.past i g with mem := s.mem.write (s.ea m).toNat out.1, p := out.2 } := by
  rw [State.pace_past (hi ▸ hg) ((modifyCycles_length ..).trans hi.symm), State.foundP_of_none hg.1, State.run_modifyCycles,
    State.past, hl]
  rfl

/-- A shift whose cycles the gate passes writes its result back and P, with PC past its bytes (section 3 of
42_incdec_shift.md). -/
theorem State.pace_shiftCycles {o : ShiftOperand} (f : Byte → Byte → Byte × Byte) (hg : s.passes o.cycles g)
    (hi : i.cycles = o.cycles) (hl : i.length = (Instr.asl o).length) :
    s.pace i (shiftCycles o s.foundP f) =
      let out := f (s.shiftValue o) s.p
      .next (s.writeBack o out.1 { s.past i g with p := out.2 }) := by
  rw [State.pace_past (hi ▸ hg) ((shiftCycles_length ..).trans hi.symm), State.foundP_of_none hg.1, State.run_shiftCycles,
    State.past, hl]
  cases o <;> rfl

/-- An implied-mode instruction whose one cycle the gate passes does its work with PC past its opcode. -/
theorem State.pace_impliedCycles (work : Cycle) (hg : s.passes 1 g) (hi : i.cycles = 1) :
    s.pace i (impliedCycles work) =
      .next { (work (s.advance 1)).withGate g with cycleCount := s.cycleCount + i.cycles, inFlight := s.inFlight } :=
  State.pace_past (hi ▸ hg) hi.symm

end

section
variable {s g : State} {m : MemOperand} (hg : s.passes (m.resolverReads + 3) g)
include hg

/-- INC's next state (R171). -/
theorem exec_inc : exec (.inc m) s =
    let r := s.mem.read (s.ea m).toNat + 1
    .next { s.past (.inc m) g with mem := s.mem.write (s.ea m).toNat r, p := setZN s.p r } :=
  State.pace_modifyCycles _ hg rfl rfl

/-- DEC's next state (R172). -/
theorem exec_dec : exec (.dec m) s =
    let r := s.mem.read (s.ea m).toNat - 1
    .next { s.past (.dec m) g with mem := s.mem.write (s.ea m).toNat r, p := setZN s.p r } :=
  State.pace_modifyCycles _ hg rfl rfl

end

section
variable {s g : State} (hg : s.passes 1 g)
include hg

/-- INX's next state (R173). -/
theorem exec_inx : exec .inx s = .next { s.past .inx g with x := s.x + 1, p := setZN s.p (s.x + 1) } :=
  State.pace_impliedCycles (g := g) _ hg rfl

/-- DEX's next state (R174). -/
theorem exec_dex : exec .dex s = .next { s.past .dex g with x := s.x - 1, p := setZN s.p (s.x - 1) } :=
  State.pace_impliedCycles (g := g) _ hg rfl

/-- INY's next state (R175). -/
theorem exec_iny : exec .iny s = .next { s.past .iny g with y := s.y + 1, p := setZN s.p (s.y + 1) } :=
  State.pace_impliedCycles (g := g) _ hg rfl

/-- DEY's next state (R176). -/
theorem exec_dey : exec .dey s = .next { s.past .dey g with y := s.y - 1, p := setZN s.p (s.y - 1) } :=
  State.pace_impliedCycles (g := g) _ hg rfl

end

section
variable {s g : State} {o : ShiftOperand} (hg : s.passes o.cycles g)
include hg

/-- ASL's next state (R177). -/
theorem exec_asl : exec (.asl o) s =
    let out := shiftLeft false (s.shiftValue o) s.p
    .next (s.writeBack o out.1 { s.past (.asl o) g with p := out.2 }) :=
  State.pace_shiftCycles _ hg rfl rfl

/-- LSR's next state (R178). -/
theorem exec_lsr : exec (.lsr o) s =
    let out := shiftRight false (s.shiftValue o) s.p
    .next (s.writeBack o out.1 { s.past (.lsr o) g with p := out.2 }) :=
  State.pace_shiftCycles _ hg rfl rfl

/-- ROL's next state (R179). -/
theorem exec_rol : exec (.rol o) s =
    let out := shiftLeft (getFlag s.p .c) (s.shiftValue o) s.p
    .next (s.writeBack o out.1 { s.past (.rol o) g with p := out.2 }) :=
  State.pace_shiftCycles _ hg rfl rfl

/-- ROR's next state (R180). -/
theorem exec_ror : exec (.ror o) s =
    let out := shiftRight (getFlag s.p .c) (s.shiftValue o) s.p
    .next (s.writeBack o out.1 { s.past (.ror o) g with p := out.2 }) :=
  State.pace_shiftCycles _ hg rfl rfl

end

/-! ### The statements -/

/-- Settles O13: the opcodes by looking them up; the byte each of the two writes back with the flags of `setZN`. -/
theorem incDecMemoryWriteOneByte : Obligations.IncDecMemoryWriteOneByte := by
  refine ⟨fun _ _ => rfl, fun _ _ => rfl, fun m s g i r hg hi => ?_⟩
  simp only [List.mem_cons, List.not_mem_nil, or_false, Prod.mk.injEq] at hi
  obtain ⟨rfl, rfl⟩ | ⟨rfl, rfl⟩ := hi
  · exact ⟨_, flagsBecome_setZN _ _, exec_inc hg⟩
  · exact ⟨_, flagsBecome_setZN _ _, exec_dec hg⟩

/-- Settles O14: each register's two next states, with the flags of `setZN`. -/
theorem incDecRegistersWrap : Obligations.IncDecRegistersWrap := by
  refine ⟨fun _ _ => rfl, fun s g hg => ⟨fun i r hi => ?_, fun i r hi => ?_⟩⟩
  all_goals
    simp only [List.mem_cons, List.not_mem_nil, or_false, Prod.mk.injEq] at hi
    obtain ⟨rfl, rfl⟩ | ⟨rfl, rfl⟩ := hi
  · exact ⟨_, flagsBecome_setZN _ _, exec_inx hg⟩
  · exact ⟨_, flagsBecome_setZN _ _, exec_dex hg⟩
  · exact ⟨_, flagsBecome_setZN _ _, exec_iny hg⟩
  · exact ⟨_, flagsBecome_setZN _ _, exec_dey hg⟩

/-- Settles O15: both are the left shift, with 0 or the old C shifted in. -/
theorem leftShiftsMoveBitSevenToCarry : Obligations.LeftShiftsMoveBitSevenToCarry := by
  refine ⟨fun _ _ => rfl, fun _ _ => rfl, fun o s g i cin hg hi => ?_⟩
  intro v r
  have hr : (shiftLeft cin v s.p).1 = r := shiftLeft_fst cin v s.p
  rw [← hr]
  simp only [List.mem_cons, List.not_mem_nil, or_false, Prod.mk.injEq] at hi
  obtain ⟨rfl, rfl⟩ | ⟨rfl, rfl⟩ := hi
  · exact ⟨_, flagsBecome_leftShiftFlags _ _ _, exec_asl hg⟩
  · exact ⟨_, flagsBecome_leftShiftFlags _ _ _, exec_rol hg⟩

/-- Settles O16: both are the right shift, with 0 or the old C shifted in. -/
theorem rightShiftsClearN : Obligations.RightShiftsClearN := by
  refine ⟨fun _ _ => rfl, fun _ _ => rfl, fun o s g i cin hg hi => ?_⟩
  intro v r
  have hr : (shiftRight cin v s.p).1 = r := shiftRight_fst cin v s.p
  rw [← hr]
  simp only [List.mem_cons, List.not_mem_nil, or_false, Prod.mk.injEq] at hi
  obtain ⟨rfl, rfl⟩ | ⟨rfl, rfl⟩ := hi
  · exact ⟨_, flagsBecome_rightShiftFlags _ _ _, exec_lsr hg⟩
  · exact ⟨_, flagsBecome_rightShiftFlags _ _ _, exec_ror hg⟩

end Sys2Proof.Machine
end

section
/-! Loads, stores, transfers and the stack (43_load_store_transfer_stack.md): each instruction as the next state it answers where
the gate passes its cycles. -/

namespace Sys2Proof.Machine

/-! ### The cycles of a push and of a pull -/

/-- A push instruction: the opcode fetch and `Push` (20_memory.md R67). -/
theorem State.run_pushCycles (s : State) (value : State → Byte) :
    s.runCycles (pushCycles value) = (s.advance 1).push (value (s.advance 1)) := rfl

theorem pushCycles_length (value : State → Byte) : (pushCycles value).length = 2 := rfl

/-- A pull instruction: the opcode fetch, `Pull`, and the work on the byte pulled (20_memory.md R68). -/
theorem State.run_pullCycles (s : State) (work : Byte → Cycle) :
    s.runCycles (pullCycles work) = work (s.advance 1).pull.1 (s.advance 1).pull.2 := rfl

theorem pullCycles_length (work : Byte → Cycle) : (pullCycles work).length = 2 := rfl

/-! ### The cycles behind the gate -/

section
variable {s g : State} {i : Instr}

/-- A storing instruction whose cycles the gate passes writes one byte at the effective address, with PC past its bytes
(section 2 of 43_load_store_transfer_stack.md). -/
theorem State.pace_storeCycles {m : MemOperand} (value : State → Byte) (hg : s.passes (m.resolverReads + 2) g)
    (hi : i.cycles = m.resolverReads + 2) (hl : i.length = 1 + m.bytes.length) :
    s.pace i (storeCycles m value) =
      .next { s.past i g with mem := s.mem.write (s.ea m).toNat (value (s.advance i.length)) } := by
  rw [State.pace_past (hi ▸ hg) ((storeCycles_length ..).trans hi.symm), State.run_storeCycles, State.past, hl]
  rfl

/-- A push instruction whose two cycles the gate passes writes one byte at S in page 1 and lowers S, with PC past its opcode
(20_memory.md R67). -/
theorem State.pace_pushCycles (value : State → Byte) (hg : s.passes 2 g) (hi : i.cycles = 2) (hl : i.length = 1) :
    s.pace i (pushCycles value) =
      .next { s.past i g with mem := s.mem.write (0x100 + s.sp.toNat) (value (s.advance 1)), sp := s.sp - 1 } := by
  rw [State.pace_past (hi ▸ hg) ((pushCycles_length _).trans hi.symm), State.run_pushCycles, State.push_eq,
    ← stackAddr_toNat, State.past, hl]
  rfl

/-- A pull instruction whose two cycles the gate passes does its work on the byte at the raised S in page 1, with PC past its
opcode (20_memory.md R68). -/
theorem State.pace_pullCycles (work : Byte → Cycle) (hg : s.passes 2 g) (hi : i.cycles = 2) :
    s.pace i (pullCycles work) =
      .next { (work (s.mem.read (0x100 + (s.sp + 1).toNat)) { s.advance 1 with sp := s.sp + 1 }).withGate g with
        cycleCount := s.cycleCount + i.cycles, inFlight := s.inFlight } := by
  rw [State.pace_past (hi ▸ hg) ((pullCycles_length _).trans hi.symm), State.run_pullCycles, State.pull_eq,
    ← stackAddr_toNat]
  rfl

end

/-! ### The instructions -/

section
variable {s g : State} {o : ReadOperand} (hg : s.passes o.cycles g)
include hg

/-- LDA's next state (R200). -/
theorem exec_lda : exec (.lda o) s = .next { s.past (.lda o) g with a := s.operand o, p := setZN s.p (s.operand o) } :=
  State.pace_readCycles s g _ hg rfl

/-- LDX's next state (R201). -/
theorem exec_ldx : exec (.ldx o) s = .next { s.past (.ldx o) g with x := s.operand o, p := setZN s.p (s.operand o) } :=
  State.pace_readCycles s g _ hg rfl

/-- LDY's next state (R202). -/
theorem exec_ldy : exec (.ldy o) s = .next { s.past (.ldy o) g with y := s.operand o, p := setZN s.p (s.operand o) } :=
  State.pace_readCycles s g _ hg rfl

end

section
variable {s g : State} {m : MemOperand} (hg : s.passes (m.resolverReads + 2) g)
include hg

/-- STA's next state (R203). -/
theorem exec_sta : exec (.sta m) s = .next { s.past (.sta m) g with mem := s.mem.write (s.ea m).toNat s.a } :=
  State.pace_storeCycles _ hg rfl rfl

/-- STX's next state (R204). -/
theorem exec_stx : exec (.stx m) s = .next { s.past (.stx m) g with mem := s.mem.write (s.ea m).toNat s.x } :=
  State.pace_storeCycles _ hg rfl rfl

/-- STY's next state (R205). -/
theorem exec_sty : exec (.sty m) s = .next { s.past (.sty m) g with mem := s.mem.write (s.ea m).toNat s.y } :=
  State.pace_storeCycles _ hg rfl rfl

end

section
variable {s g : State} (hg : s.passes 1 g)
include hg

/-- TAX's next state (R206). -/
theorem exec_tax : exec .tax s = .next { s.past .tax g with x := s.a, p := setZN s.p s.a } :=
  State.pace_impliedCycles (g := g) _ hg rfl

/-- TXA's next state (R207). -/
theorem exec_txa : exec .txa s = .next { s.past .txa g with a := s.x, p := setZN s.p s.x } :=
  State.pace_impliedCycles (g := g) _ hg rfl

/-- TAY's next state (R208). -/
theorem exec_tay : exec .tay s = .next { s.past .tay g with y := s.a, p := setZN s.p s.a } :=
  State.pace_impliedCycles (g := g) _ hg rfl

/-- TYA's next state (R209). -/
theorem exec_tya : exec .tya s = .next { s.past .tya g with a := s.y, p := setZN s.p s.y } :=
  State.pace_impliedCycles (g := g) _ hg rfl

/-- TSX's next state (R210). -/
theorem exec_tsx : exec .tsx s = .next { s.past .tsx g with x := s.sp, p := setZN s.p s.sp } :=
  State.pace_impliedCycles (g := g) _ hg rfl

/-- TXS's next state (R211). -/
theorem exec_txs : exec .txs s = .next { s.past .txs g with sp := s.x } :=
  State.pace_impliedCycles (g := g) _ hg rfl

end

section
variable {s g : State} (hg : s.passes 2 g)
include hg

/-- PHA's next state (R212). -/
theorem exec_pha :
    exec .pha s = .next { s.past .pha g with mem := s.mem.write (0x100 + s.sp.toNat) s.a, sp := s.sp - 1 } :=
  State.pace_pushCycles _ hg rfl rfl

/-- PLA's next state (R213). -/
theorem exec_pla : exec .pla s =
    let v := s.mem.read (0x100 + (s.sp + 1).toNat)
    .next { s.past .pla g with a := v, sp := s.sp + 1, p := setZN s.p v } :=
  State.pace_pullCycles (g := g) _ hg rfl

/-- PHP's next state (R214). -/
theorem exec_php :
    exec .php s = .next { s.past .php g with mem := s.mem.write (0x100 + s.sp.toNat) s.p, sp := s.sp - 1 } :=
  State.pace_pushCycles _ hg rfl rfl

/-- PLP's next state (R215). -/
theorem exec_plp : exec .plp s =
    .next { s.past .plp g with p := s.mem.read (0x100 + (s.sp + 1).toNat), sp := s.sp + 1 } :=
  State.pace_pullCycles (g := g) _ hg rfl

end

/-! ### The statements -/

/-- Settles O17: the opcodes by looking them up; the three loads share the flags of `setZN` on the operand. -/
theorem loadsWriteTheirRegisterZN : Obligations.LoadsWriteTheirRegisterZN :=
  ⟨fun _ _ => rfl, fun _ _ => rfl, fun _ _ => rfl,
    fun _ _ _ hg => ⟨_, flagsBecome_setZN _ _, exec_lda hg, exec_ldx hg, exec_ldy hg⟩⟩

/-- Settles O18: each store's next state, which has no term for P; 0x89 is looked up with the opcodes of STA. -/
theorem storesWriteTheirRegisterOnly : Obligations.StoresWriteTheirRegisterOnly :=
  ⟨fun _ _ => rfl, fun _ _ => rfl, fun _ _ => rfl, fun _ _ _ hg => ⟨exec_sta hg, exec_stx hg, exec_sty hg⟩⟩

/-- Settles O19: five transfers with the flags of `setZN` on the register copied, and TXS, which has no term for P. -/
theorem transfersCopyOneRegister : Obligations.TransfersCopyOneRegister := by
  refine ⟨fun _ _ => rfl, fun s g hg => ⟨?_, ?_, ?_, ?_, exec_txs hg⟩⟩
  · exact ⟨_, flagsBecome_setZN _ _, exec_tax hg, exec_tay hg⟩
  · exact ⟨_, flagsBecome_setZN _ _, exec_txa hg⟩
  · exact ⟨_, flagsBecome_setZN _ _, exec_tya hg⟩
  · exact ⟨_, flagsBecome_setZN _ _, exec_tsx hg⟩

/-- Settles O20: both are the push, of A or of P as stored. -/
theorem pushesWriteBelowTheStackTop : Obligations.PushesWriteBelowTheStackTop :=
  ⟨fun _ _ => rfl, fun _ _ hg => ⟨exec_pha hg, exec_php hg⟩⟩

/-- Settles O21: both are the pull, whose byte goes to A with the flags of `setZN`, or to all of P. -/
theorem pullsReadAboveTheStackTop : Obligations.PullsReadAboveTheStackTop :=
  ⟨fun _ _ => rfl, fun _ _ hg => ⟨⟨_, flagsBecome_setZN _ _, exec_pla hg⟩, exec_plp hg⟩⟩

end Sys2Proof.Machine
end

section
/-! Branch and control (44_branch_control.md): the flags, return addresses and stack slots, then each instruction as the next
state it answers where the gate passes its cycles. -/

namespace Sys2Proof.Machine

/-! ### The flags each computation writes -/

/-- BIT writes N and V from memory and Z from the bits shared with A (R254). -/
theorem flagsBecome_bitFlags (p a m : Byte) :
    FlagsBecome p (bitFlags p a m) [(.n, m.getLsbD 7), (.v, m.getLsbD 6), (.z, a &&& m == 0)] := by
  intro f
  cases f <;> simp [bitFlags, flagAfter]

/-- Writing one flag writes that flag whatever it was (R256 to R262). -/
theorem flagsBecome_putFlag (p : Byte) (f : Flag) (val : Bool) : FlagsBecome p (putFlag p f val) [(f, val)] :=
  fun g => getFlag_putFlag p f g val

/-- A trap writes B and I as 1 (R249). -/
theorem flagsBecome_trapFlags (p : Byte) :
    FlagsBecome p (putFlag (putFlag p .b true) .i true) [(.b, true), (.i, true)] := by
  intro f
  cases f <;> simp [flagAfter]

/-! ### Addresses -/

/-- Two increments of an address, as two byte fetches make them. -/
theorem addr_add_one_add_one (w : Addr) : w + 1 + 1 = w + 2 := BitVec.add_assoc w 1 1

/-- PC past the three bytes of JSR, less one, is `op_addr + 2` (R251). -/
theorem addr_add_three_sub_one (w : Addr) : w + 1 + 1 + 1 - 1 = w + 2 := by
  rw [BitVec.add_sub_cancel, addr_add_one_add_one]

/-- Two increments of S, as two pulls make them. -/
theorem byte_add_one_add_one (b : Byte) : b + 1 + 1 = b + 2 := BitVec.add_assoc b 1 1

/-- Three increments of S, as the pulls of RTI make them. -/
theorem byte_add_two_add_one (b : Byte) : b + 2 + 1 = b + 3 := BitVec.add_assoc b 2 1

/-- Two decrements of S, as two pushes make them. -/
theorem byte_sub_one_sub_one (b : Byte) : b - 1 - 1 = b - 2 := by bv_omega

/-- Three decrements of S, as the pushes of BRK make them. -/
theorem byte_sub_two_sub_one (b : Byte) : b - 2 - 1 = b - 3 := by bv_omega

/-- A push leaves every byte above page 1 alone. -/
theorem Memory.read_write_stackAddr (m : Memory) {a : Nat} (k v : Byte) (ha : 0x200 ≤ a) :
    (m.write (stackAddr k).toNat v).read a = m.read a := by
  have hk : (stackAddr k).toNat < 0x200 := by
    have := k.isLt
    rw [stackAddr_toNat]
    omega
  exact Memory.read_write_other m v (by omega)

/-- A push leaves the IRQ vector alone, so that BRK finds it after its three pushes (R249). -/
theorem Memory.wordAt_irqVector_write_stackAddr (m : Memory) (k v : Byte) :
    (m.write (stackAddr k).toNat v).wordAt irqVector = m.wordAt irqVector :=
  congrArg₂ word (Memory.read_write_stackAddr m k v (by decide)) (Memory.read_write_stackAddr m k v (by decide))

/-! ### The cycles -/

theorem branchCycles_length (b : Byte) (cond : State → Bool) : (branchCycles b cond).length = 2 := rfl

/-- Trap entry with its slots as offsets in page 1, and the vector read from the memory before the pushes (R249). -/
theorem State.run_enterTrap_page1 (s : State) (ret : Addr) :
    s.runCycles (enterTrap ret) =
      let p' := putFlag (putFlag s.p .b true) .i true
      { s with
        p := p'
        mem := ((s.mem.write (0x100 + s.sp.toNat) (hiByte ret)).write (0x100 + (s.sp - 1).toNat) (loByte ret)).write
          (0x100 + (s.sp - 2).toNat) p'
        sp := s.sp - 3
        pc := s.mem.wordAt irqVector } := by
  simp only [State.run_enterTrap, Memory.wordAt_irqVector_write_stackAddr]
  simp only [stackAddr_toNat, byte_sub_one_sub_one, byte_sub_two_sub_one]

/-- Trap return with its slots as offsets in page 1 (R250). -/
theorem State.run_returnFromTrap_page1 (s : State) :
    s.runCycles returnFromTrap = { s with
      p := s.mem.read (0x100 + (s.sp + 1).toNat)
      sp := s.sp + 3
      pc := word (s.mem.read (0x100 + (s.sp + 3).toNat)) (s.mem.read (0x100 + (s.sp + 2).toNat)) } := by
  rw [State.run_returnFromTrap]
  simp only [stackAddr_toNat, byte_add_one_add_one, byte_add_two_add_one]

/-- JSR's cycles push the return address, high byte first, and leave PC at the operand word (R251). -/
theorem State.run_jsrCycles (s : State) (w : Addr) :
    s.runCycles [State.fetchByte, State.fetchByte, State.fetchByte, fun s => s.push (hiByte (s.pc - 1)),
      fun s => (s.push (loByte (s.pc - 1))).setPC w] =
      { s with
        mem := (s.mem.write (0x100 + s.sp.toNat) (hiByte (s.pc + 2))).write (0x100 + (s.sp - 1).toNat) (loByte (s.pc + 2))
        sp := s.sp - 2
        pc := w } := by
  rw [← stackAddr_toNat, ← stackAddr_toNat, ← byte_sub_one_sub_one, ← addr_add_three_sub_one]
  rfl

/-- RTS's cycles pull two bytes and leave PC one past their word, whose low byte lies one below the raised S (R252). -/
theorem State.run_rtsCycles (s : State) :
    s.runCycles [fun s => s.fetchByte.raiseSP, State.raiseSP, fun s => s.setPC (s.pulledAddr + 1)] =
      { s with
        sp := s.sp + 2
        pc := word (s.mem.read (0x100 + (s.sp + 2).toNat)) (s.mem.read (0x100 + (s.sp + 1).toNat)) + 1 } := by
  have hlow : stackAddr (s.sp + 1 + 1 - 1) = stackAddr (s.sp + 1) := by rw [BitVec.add_sub_cancel]
  rw [← stackAddr_toNat, ← stackAddr_toNat, ← byte_add_one_add_one, ← hlow]
  rfl

/-! ### The instructions -/

section
variable {s g : State} {i : Instr}

/-- A branch whose two cycles the gate passes writes PC alone: `op_addr + 2`, and the signed offset added where its condition,
which PC does not change, holds (R240). -/
theorem State.pace_branchCycles {b : Byte} {cond : State → Bool} {taken : Bool} (hg : s.passes 2 g)
    (hcond : cond (s.advance 1) = taken) (hi : i.cycles = 2) :
    s.pace i (branchCycles b cond) =
      .next { s.past i g with pc := if taken then s.pc + 2 + BitVec.ofInt 16 b.toInt else s.pc + 2 } := by
  rw [State.pace_past (hi ▸ hg) ((branchCycles_length b cond).trans hi.symm), State.run_branchCycles, hcond,
    addr_add_one_add_one]
  cases taken with
  | true => rfl
  | false => rfl

/-- A flag instruction whose one cycle the gate passes writes its flag, with PC past its opcode (R256 to R262). -/
theorem State.pace_setFlag (f : Flag) (val : Bool) (hg : s.passes 1 g) (hi : i.cycles = 1) (hl : i.length = 1) :
    s.pace i (impliedCycles fun s => s.setFlag f val) = .next { s.past i g with p := putFlag s.p f val } := by
  rw [State.pace_impliedCycles _ hg hi, State.past, hl]
  rfl

end

section
variable {s g : State}

/-- BIT's next state (R254). -/
theorem exec_bit {m : MemOperand} (hg : s.passes (Instr.bit m).cycles g) :
    exec (.bit m) s = .next { s.past (.bit m) g with p := bitFlags s.p s.a (s.mem.read (s.ea m).toNat) } :=
  State.pace_readCycles (o := .mem m) s g _ hg rfl

/-- NOP's next state (R263). -/
theorem exec_nop (hg : s.passes 1 g) : exec .nop s = .next (s.past .nop g) :=
  State.pace_past (g := g) (i := .nop) (cycles := [State.fetchByte]) hg rfl

/-- BRK's next state (R249), the vector read before the pushes, which do not reach it. -/
theorem exec_brk (hg : s.passes 6 g) : exec .brk s =
    let ret := s.pc + 2
    let p' := putFlag (putFlag s.p .b true) .i true
    .next { s.past .brk g with
      p := p'
      mem := ((s.mem.write (0x100 + s.sp.toNat) (hiByte ret)).write (0x100 + (s.sp - 1).toNat) (loByte ret)).write
        (0x100 + (s.sp - 2).toNat) p'
      sp := s.sp - 3
      pc := s.mem.wordAt irqVector } := by
  have hop : s.opAddr = s.pc := by rw [State.opAddr, hg.1]
  rw [exec, execBrk, State.pace_past hg rfl, State.run_enterTrap_page1, hop]
  rfl

/-- RTI's next state (R250). -/
theorem exec_rti (hg : s.passes 4 g) : exec .rti s = .next { s.past .rti g with
    p := s.mem.read (0x100 + (s.sp + 1).toNat)
    sp := s.sp + 3
    pc := word (s.mem.read (0x100 + (s.sp + 3).toNat)) (s.mem.read (0x100 + (s.sp + 2).toNat)) } := by
  rw [exec, execRti, State.pace_past hg rfl, State.run_returnFromTrap_page1]
  rfl

/-- JSR's next state (R251). -/
theorem exec_jsr {w : Addr} (hg : s.passes 5 g) : exec (.jsr w) s = .next { s.past (.jsr w) g with
    mem := (s.mem.write (0x100 + s.sp.toNat) (hiByte (s.pc + 2))).write (0x100 + (s.sp - 1).toNat) (loByte (s.pc + 2))
    sp := s.sp - 2
    pc := w } := by
  rw [exec, execJsr, State.pace_past hg rfl, State.run_jsrCycles]
  rfl

/-- RTS's next state (R252). -/
theorem exec_rts (hg : s.passes 3 g) : exec .rts s = .next { s.past .rts g with
    sp := s.sp + 2
    pc := word (s.mem.read (0x100 + (s.sp + 2).toNat)) (s.mem.read (0x100 + (s.sp + 1).toNat)) + 1 } := by
  rw [exec, execRts, State.pace_past hg rfl, State.run_rtsCycles]
  rfl

/-- JMP's next state in absolute mode (R253). -/
theorem exec_jmp_abs {w : Addr} (hg : s.passes 3 g) :
    exec (.jmp (.abs w)) s = .next { s.past (.jmp (.abs w)) g with pc := w } :=
  State.pace_past (g := g) (i := .jmp (.abs w)) hg rfl

/-- JMP's next state in indirect mode (R253). -/
theorem exec_jmp_ind {w : Addr} (hg : s.passes 5 g) :
    exec (.jmp (.ind w)) s = .next { s.past (.jmp (.ind w)) g with pc := s.mem.wordAt w } :=
  State.pace_past (g := g) (i := .jmp (.ind w)) hg rfl

end

/-! ### The statements -/

/-- Settles O12: BIT's next state, with the flags of `bitFlags`. -/
theorem bitTestsMemoryAgainstA : Obligations.BitTestsMemoryAgainstA :=
  ⟨fun _ _ => rfl, fun _ _ _ hg => ⟨_, flagsBecome_bitFlags _ _ _, exec_bit hg⟩⟩

/-- Settles O23: the eight share the branch's cycles, each with its own condition. -/
theorem branchesWritePCOnly : Obligations.BranchesWritePCOnly := by
  refine ⟨fun _ _ => rfl, fun b s g i taken hg hi => ?_⟩
  simp only [List.mem_cons, List.not_mem_nil, or_false, Prod.mk.injEq] at hi
  obtain ⟨rfl, rfl⟩ | ⟨rfl, rfl⟩ | ⟨rfl, rfl⟩ | ⟨rfl, rfl⟩ | ⟨rfl, rfl⟩ | ⟨rfl, rfl⟩ | ⟨rfl, rfl⟩ | ⟨rfl, rfl⟩ := hi
  all_goals exact State.pace_branchCycles hg rfl rfl

/-- Settles O24: BRK's next state, whose P is the one pushed. -/
theorem brkTakesTheTrap : Obligations.BrkTakesTheTrap :=
  ⟨fun _ _ => rfl, fun _ _ hg => ⟨_, flagsBecome_trapFlags _, exec_brk hg⟩⟩

/-- Settles O25: RTI's next state, its three pulls at the three raised values of S. -/
theorem rtiRestoresPAndPC : Obligations.RtiRestoresPAndPC := ⟨fun _ _ => rfl, fun _ _ hg => exec_rti hg⟩

/-- Settles O27: JSR's next state, the return address being `op_addr + 2`. -/
theorem jsrPushesTheReturnAddress : Obligations.JsrPushesTheReturnAddress := ⟨fun _ _ => rfl, fun _ _ _ hg => exec_jsr hg⟩

/-- Settles O28: RTS's next state, its two pulls at the two raised values of S. -/
theorem rtsPullsAndIncrements : Obligations.RtsPullsAndIncrements := ⟨fun _ _ => rfl, fun _ _ hg => exec_rts hg⟩

/-- Settles O30: JMP's two next states; the pointer's high byte is at the operand word plus one modulo 65536. -/
theorem jmpGoesToTheTarget : Obligations.JmpGoesToTheTarget := by
  refine ⟨fun _ _ => rfl, fun w s g => ⟨fun hg => exec_jmp_abs hg, fun hg => ?_⟩⟩
  have hnext : (w + 1).toNat = (w.toNat + 1) % 65536 := BitVec.toNat_add w 1
  rw [exec_jmp_ind hg, Memory.wordAt, hnext]

/-- Settles O31: each of the seven writes one flag by `putFlag`, which keeps the others; NOP's next state has no term for P. -/
theorem flagInstructionsWriteOneBit : Obligations.FlagInstructionsWriteOneBit := by
  refine ⟨fun _ _ => rfl, fun s g hg => ⟨fun i f val hi => ⟨_, flagsBecome_putFlag s.p f val, ?_⟩, exec_nop hg⟩⟩
  simp only [List.mem_cons, List.not_mem_nil, or_false, Prod.mk.injEq] at hi
  obtain ⟨rfl, rfl, rfl⟩ | ⟨rfl, rfl, rfl⟩ | ⟨rfl, rfl, rfl⟩ | ⟨rfl, rfl, rfl⟩ | ⟨rfl, rfl, rfl⟩ | ⟨rfl, rfl, rfl⟩ |
    ⟨rfl, rfl, rfl⟩ := hi
  all_goals exact State.pace_setFlag _ _ hg rfl rfl

end Sys2Proof.Machine
end

section
/-! Decode errors (60_exceptions.md R301): only a byte without an entry in the opcode map decodes as illegal, and then as itself. -/

namespace Sys2Proof

/-- The instruction an illegal byte stands for. -/
def Instr.isIllegal : Instr → Bool
  | .illegal _ => true
  | _ => false

/-- No entry of the opcode map builds an illegal instruction, whatever operand bytes follow. -/
theorem opcodeMap_builds_no_illegal (b1 b2 : Byte) :
    (opcodeMap.all fun row => row.all fun e => e.all fun f => !(f.build b1 b2).isIllegal) = true := rfl

/-- A byte selects its entry of the opcode map, or, without one, the illegal instruction of that byte. -/
theorem decodeOpcode_cases (op : Byte) :
    (∃ row ∈ opcodeMap, some (decodeOpcode op) ∈ row) ∨ decodeOpcode op = .f1 (.illegal op) := by
  unfold decodeOpcode
  split
  · exact .inr rfl
  · next row hrow =>
    split
    · next f hf => exact .inl ⟨row, List.mem_of_getElem? hrow, List.mem_of_getElem? hf⟩
    · exact .inr rfl

/-- What decodes as illegal is the opcode byte itself. -/
theorem eq_of_decodeBytes_eq_illegal {b0 b1 b2 op : Byte} (h : decodeBytes b0 b1 b2 = .illegal op) : b0 = op := by
  obtain ⟨row, hrow, hf⟩ | hop := decodeOpcode_cases b0
  · have hall := opcodeMap_builds_no_illegal b1 b2
    have hno := List.all_eq_true.1 (List.all_eq_true.1 hall row hrow) _ hf
    rw [Option.all_some, ← decodeBytes, h] at hno
    exact nomatch hno
  · rw [decodeBytes, hop] at h
    exact Instr.illegal.inj h

end Sys2Proof
end

section
/-! The AlwaysOpen gate (60_exceptions.md R323): each half of it is the identity but for the count, so every cycle passes. -/

namespace Sys2Proof.Machine

section
variable {s : State} (ho : s.cfg.gateMode = .alwaysOpen)
include ho

theorem State.startCycle_alwaysOpen : s.startCycle = s := by rw [State.startCycle, ho]

theorem State.driverBegin_alwaysOpen : s.driverBegin = s := by rw [State.driverBegin, ho]

theorem State.driverEnd_alwaysOpen : s.driverEnd = s := by rw [State.driverEnd, ho]

theorem State.exitCycle_alwaysOpen : s.exitCycle = s := by rw [State.exitCycle, ho]

theorem State.enterEnd_alwaysOpen (hf : s.inFlight = none) : s.enterEnd = some s := by
  rw [State.enterEnd, ho, ← hf]

end

theorem State.enterBegin_of_none {s : State} (hf : s.inFlight = none) :
    s.enterBegin = { s with cycleCount := s.cycleCount + 1 } := by rw [State.enterBegin_eq, State.counted_none hf]; rfl

section
variable {s : State} (ho : s.cfg.gateMode = .alwaysOpen) (hf : s.inFlight = none)
include ho hf

/-- Behind an AlwaysOpen gate `enter_cycle` counts one and returns (R323). -/
theorem State.enterBegin_enterEnd_alwaysOpen :
    s.enterBegin.enterEnd = some { s with cycleCount := s.cycleCount + 1 } := by
  rw [State.enterBegin_of_none hf, State.enterEnd_alwaysOpen (by exact ho) (by exact hf)]

/-- An AlwaysOpen gate passes a cycle and only counts it. -/
theorem State.gatedCycle_alwaysOpen : s.gatedCycle = some { s with cycleCount := s.cycleCount + 1 } := by
  have hb : s.enterBegin.driverBegin = s.enterBegin := by
    rw [State.enterBegin_of_none hf, State.driverBegin_alwaysOpen (by exact ho)]
  rw [State.gatedCycle, hb, State.enterBegin_enterEnd_alwaysOpen ho hf]
  simp only
  rw [State.exitCycle_alwaysOpen (by exact ho), State.driverEnd_alwaysOpen (by exact ho)]

end

/-- An AlwaysOpen gate passes any number of cycles and only counts them. -/
theorem State.gatedCycles_alwaysOpen {s : State} (ho : s.cfg.gateMode = .alwaysOpen) (hf : s.inFlight = none) (n : Nat) :
    s.gatedCycles n = (n, { s with cycleCount := s.cycleCount + n }) := by
  induction n generalizing s with
  | zero => rfl
  | succ n ih =>
    have hrest := ih (s := { s with cycleCount := s.cycleCount + 1 }) ho hf
    rw [State.gatedCycles, State.gatedCycle_alwaysOpen ho hf]
    simp only [hrest, Nat.add_assoc, Nat.add_comm 1 n]

end Sys2Proof.Machine
end

section
/-! What follows an instruction, and the step over an illegal byte (60_exceptions.md R301 to R303, R326, R327). -/

namespace Sys2Proof.Machine

/-! ### The loop after an instruction -/

/-- While the CPU waits inside `enter_cycle`, nothing follows (R331). -/
theorem State.afterExec_of_some {s t : State} {f : InFlight} (ht : t.inFlight = some f) : s.afterExec t = t := by
  rw [State.afterExec, ht]

/-- A complete instruction is reported with its count and counted itself; a decode error ends the run under the strict policy
(R303, R326, R327). -/
theorem State.completeInstruction_eq (s t : State) : s.completeInstruction t = { t with
    reports := t.reports ++ [.instructionComplete s.opAddr s.op t.cycleCount]
    cycleCount := 0
    executed := t.executed + 1
    running := if decodeErrorRaised s t && t.cfg.illegalPolicy == .strict then false else t.running } := by
  simp only [State.completeInstruction]
  split
  · rfl
  · rfl

/-- What follows an instruction that left the CPU outside `enter_cycle` is its completion. -/
theorem State.afterExec_of_none {s t : State} (ht : t.inFlight = none) : s.afterExec t = s.completeInstruction t := by
  rw [State.afterExec, ht]

theorem State.opAddr_of_none {s : State} (h : s.inFlight = none) : s.opAddr = s.pc := by rw [State.opAddr, h]

theorem State.opAddr_of_some {s : State} {f : InFlight} (h : s.inFlight = some f) : s.opAddr = f.opAddr := by
  rw [State.opAddr, h]

theorem State.op_of_none {s : State} (h : s.inFlight = none) : s.op = s.mem.read s.pc.toNat := by rw [State.op, h]

theorem State.op_of_some {s : State} {f : InFlight} (h : s.inFlight = some f) : s.op = f.op := by rw [State.op, h]

/-- The reports an instruction appended show whether it raised a decode error. -/
theorem decodeErrorRaised_of_reports {s t : State} {rs : List Report} (h : t.reports = s.reports ++ rs) :
    decodeErrorRaised s t = rs.any Report.isDecodeError := by
  rw [decodeErrorRaised, h, List.drop_left]

/-! ### The step -/

theorem State.currentInstr_of_none {s : State} (h : s.inFlight = none) : s.currentInstr = s.instrAtPC := by
  rw [State.currentInstr, h]

/-- At a boundary where the loop goes on, a step whose instruction completes is that instruction and its completion (R90). -/
theorem step_of_completed {s t : State} {i : Instr} (hr : s.running = true) (hx : s.atLoopExit = false) (hf : s.inFlight = none)
    (hi : s.instrAtPC = i) (he : exec i s = .next t) (ht : t.inFlight = none) : step s = .next (s.completeInstruction t) := by
  simp [step, hr, hx, State.currentInstr_of_none hf, hi, he, State.afterExec_of_none ht]

/-- An illegal byte's next state (R301). -/
theorem exec_illegal {s g : State} (op : Byte) (hg : s.passes 1 g) :
    exec (.illegal op) s = .next { s.past (.illegal op) g with reports := s.reports ++ [.illegalOpcode op s.pc] } :=
  State.pace_past (g := g) (i := .illegal op) (cycles := [fun s => s.raiseIllegalOpcode op]) hg rfl

/-- An illegal byte passes on by one byte and one cycle (R301). -/
theorem State.past_illegal (s g : State) (op : Byte) :
    s.past (.illegal op) g = { s.withGate g with pc := s.pc + 1, cycleCount := s.cycleCount + 1 } := rfl

/-! ### The statements -/

/-- Settles O32: the one cycle raises the report and takes the opcode fetch. -/
theorem illegalOpcodeReportsOnly : Obligations.IllegalOpcodeReportsOnly := fun op _ _ hg => exec_illegal op hg

/-- Settles O40: each half of the gate is the identity but for the count, and the cycles in a row follow by induction. -/
theorem alwaysOpenPassesEveryCycle : Obligations.AlwaysOpenPassesEveryCycle := fun _ ho hf =>
  ⟨State.enterBegin_enterEnd_alwaysOpen ho hf, State.exitCycle_alwaysOpen ho, State.startCycle_alwaysOpen ho,
    State.driverBegin_alwaysOpen ho, State.driverEnd_alwaysOpen ho, fun n => ⟨hf, State.gatedCycles_alwaysOpen ho hf n⟩⟩

/-- Settles O50: the two ends of `afterExec`, with address and opcode from where the instruction was taken up. -/
theorem completionReportsAndCounts : Obligations.CompletionReportsAndCounts := by
  refine fun s t => ⟨fun _ => State.afterExec_of_some, fun ht opAddr op hop => ?_⟩
  obtain ⟨rfl, rfl⟩ : opAddr = s.opAddr ∧ op = s.op := by
    obtain ⟨hf, ha, ho⟩ | ⟨f, hf, ha, ho⟩ := hop
    · exact ⟨ha.trans (State.opAddr_of_none hf).symm, ho.trans (State.op_of_none hf).symm⟩
    · exact ⟨ha.trans (State.opAddr_of_some hf).symm, ho.trans (State.op_of_some hf).symm⟩
  rw [State.afterExec_of_none ht, State.completeInstruction_eq]

/-- Settles O52: the illegal byte's next state, completed by the loop; the byte reported is the one at PC. -/
theorem illegalOpcodeStep : Obligations.IllegalOpcodeStep := by
  intro s g op hr hx hc hi hg
  have hf : s.inFlight = none := hg.1
  have hop : s.op = op := (State.op_of_none hf).trans (eq_of_decodeBytes_eq_illegal hi)
  have hrun : (if [Report.illegalOpcode op s.pc].any Report.isDecodeError && s.cfg.illegalPolicy == .strict then false
      else s.running) = (s.cfg.illegalPolicy == .permissive) := by
    rw [hr]
    cases s.cfg.illegalPolicy with
    | permissive => rfl
    | strict => rfl
  rw [step_of_completed hr hx hf hi (exec_illegal op hg) hf, State.completeInstruction_eq,
    decodeErrorRaised_of_reports rfl, hop, State.opAddr_of_none hf]
  simp only [State.past_illegal, State.withGate_cfg, State.withGate_running, State.withGate_executed, hrun, hc,
    List.append_assoc, List.cons_append, List.nil_append, Nat.zero_add]

end Sys2Proof.Machine
end

section
/-! The decoder and the encoder (30_encoding.md): each opcode byte's entry of the map builds well-formed instructions that encode
to the bytes they came from, and each instruction of the table is read from its bytes. -/

namespace Sys2Proof

/-! ### From bytes to instructions -/

/-- The operand bytes a format takes of the two after the opcode (R93). -/
def Format.operands (f : Format) (b1 b2 : Byte) : List Byte :=
  match f with
  | .f1 _ => []
  | .f2 _ => [b1]
  | .f3 _ => [loByte (word b2 b1), hiByte (word b2 b1)]

/-- The values of `f` on every byte, in the rows and columns of the opcode map (R114). -/
def byteTable {α : Type} (f : Byte → α) : List (List α) :=
  (List.range 16).map fun row => (List.range 16).map fun column => f (BitVec.ofNat 8 (16 * row + column))

/-- Two functions with one table agree on every byte. -/
theorem eq_of_byteTable_eq {α : Type} {f g : Byte → α} (h : byteTable f = byteTable g) (op : Byte) : f op = g op := by
  have hrow : op.toNat / 16 ∈ List.range 16 := List.mem_range.2 (by have := op.isLt; omega)
  have hcolumn : op.toNat % 16 ∈ List.range 16 := List.mem_range.2 (Nat.mod_lt _ (by decide))
  have hop := List.map_inj_left.1 (List.map_inj_left.1 h _ hrow) _ hcolumn
  rwa [Nat.div_add_mod, BitVec.ofNat_toNat, BitVec.setWidth_eq] at hop

/-- What an opcode byte decodes to is in the opcode table, whatever bytes follow. -/
theorem decodeBytes_wellFormed (op b1 b2 : Byte) : (decodeBytes op b1 b2).wellFormed = true :=
  eq_of_byteTable_eq (f := fun op => (decodeBytes op b1 b2).wellFormed) (g := fun _ => true) rfl op

/-- What an opcode byte decodes to has that byte for its opcode. -/
theorem decodeBytes_opcode (op b1 b2 : Byte) : (decodeBytes op b1 b2).opcode = some op :=
  eq_of_byteTable_eq (f := fun op => (decodeBytes op b1 b2).opcode) (g := some) rfl op

/-- What an opcode byte decodes to has for its operand bytes those its format took. -/
theorem decodeBytes_operandBytes (op b1 b2 : Byte) :
    (decodeBytes op b1 b2).operandBytes = (decodeOpcode op).operands b1 b2 :=
  eq_of_byteTable_eq (f := fun op => (decodeBytes op b1 b2).operandBytes) (g := fun op => (decodeOpcode op).operands b1 b2)
    rfl op

/-- What bytes decode to encodes to the opcode and the operand bytes its format took. -/
theorem encode_decodeBytes (op b1 b2 : Byte) : encode (decodeBytes op b1 b2) = op :: (decodeOpcode op).operands b1 b2 := by
  rw [encode, decodeBytes_opcode, decodeBytes_operandBytes]

section
variable {op : Byte}

/-- A one-byte opcode decodes to its instruction. -/
theorem decode_f1 {i : Instr} (h : decodeOpcode op = .f1 i) (rest : List Byte) : decode (op :: rest) = .ok (i, rest) := by
  simp only [decode, h]

/-- A two-byte opcode takes its operand byte. -/
theorem decode_f2 {mk : Byte → Instr} (h : decodeOpcode op = .f2 mk) (b : Byte) (rest : List Byte) :
    decode (op :: b :: rest) = .ok (mk b, rest) := by
  simp only [decode, h]

/-- A three-byte opcode takes its operand word, low byte first. -/
theorem decode_f3 {mk : Addr → Instr} (h : decodeOpcode op = .f3 mk) (lo hi : Byte) (rest : List Byte) :
    decode (op :: lo :: hi :: rest) = .ok (mk (word hi lo), rest) := by
  simp only [decode, h]

end

/-- A list that decodes begins with an opcode byte and as many operand bytes as its format takes. -/
theorem decode_eq_ok {bytes rest : List Byte} {i : Instr} (h : decode bytes = .ok (i, rest)) :
    ∃ op b1 b2, i = decodeBytes op b1 b2 ∧ bytes = op :: (decodeOpcode op).operands b1 b2 ++ rest := by
  cases bytes with
  | nil => exact nomatch h
  | cons op tail =>
    cases hop : decodeOpcode op with
    | f1 j =>
      rw [decode_f1 hop] at h
      obtain ⟨rfl, rfl⟩ := Prod.mk.inj (Except.ok.inj h)
      exact ⟨op, 0, 0, by rw [decodeBytes, hop]; rfl, by rw [hop]; rfl⟩
    | f2 mk =>
      cases tail with
      | nil => simp [decode, hop] at h
      | cons b tail =>
        rw [decode_f2 hop] at h
        obtain ⟨rfl, rfl⟩ := Prod.mk.inj (Except.ok.inj h)
        exact ⟨op, b, 0, by rw [decodeBytes, hop]; rfl, by rw [hop]; rfl⟩
    | f3 mk =>
      match tail with
      | [] | [_] => simp [decode, hop] at h
      | lo :: hi :: tail =>
        rw [decode_f3 hop] at h
        obtain ⟨rfl, rfl⟩ := Prod.mk.inj (Except.ok.inj h)
        refine ⟨op, lo, hi, by rw [decodeBytes, hop]; rfl, ?_⟩
        rw [hop, Format.operands, loByte_word, hiByte_word]
        rfl

/-- Three bytes decode to what their opcode's format builds of the other two. -/
theorem decode_three (op b1 b2 : Byte) : ∃ rest, decode [op, b1, b2] = .ok (decodeBytes op b1 b2, rest) := by
  rw [decodeBytes]
  cases hop : decodeOpcode op with
  | f1 i => exact ⟨_, decode_f1 hop _⟩
  | f2 mk => exact ⟨_, decode_f2 hop _ _⟩
  | f3 mk => exact ⟨_, decode_f3 hop _ _ _⟩

/-! ### From instructions to bytes -/

/-- The format reads the instruction from the instruction's operand bytes. -/
def Format.Reads (f : Format) (i : Instr) : Prop :=
  match f with
  | .f1 j => j = i ∧ i.operandBytes = []
  | .f2 mk => ∃ b, mk b = i ∧ i.operandBytes = [b]
  | .f3 mk => ∃ w, mk w = i ∧ i.operandBytes = [loByte w, hiByte w]

/-- An illegal byte selects no entry of the map (R115). -/
theorem decodeOpcode_illegalByte {op : Byte} (h : op ∈ illegalBytes) : decodeOpcode op = .f1 (.illegal op) := by
  have hall : illegalBytes.map decodeOpcode = illegalBytes.map fun op => .f1 (.illegal op) := rfl
  exact List.map_inj_left.1 hall op h

/-- The opcode of an instruction of the table selects a format that reads the instruction. -/
theorem opcode_selects {i : Instr} (h : i.wellFormed = true) : ∃ op, i.opcode = some op ∧ (decodeOpcode op).Reads i := by
  cases i with
  | ora o | and o | eor o | adc o | sbc o | cmp o | lda o =>
    rcases o with b | (b | b | b | w | w | w | b | b)
    case mem.zpy => exact nomatch h
    all_goals exact ⟨_, rfl, Exists.intro _ ⟨rfl, rfl⟩⟩
  | cpx o | cpy o =>
    rcases o with b | (b | b | b | w | w | w | b | b)
    case imm | mem.zp | mem.abs => exact ⟨_, rfl, Exists.intro _ ⟨rfl, rfl⟩⟩
    all_goals exact nomatch h
  | ldx o =>
    rcases o with b | (b | b | b | w | w | w | b | b)
    case imm | mem.zp | mem.zpy | mem.abs | mem.absy => exact ⟨_, rfl, Exists.intro _ ⟨rfl, rfl⟩⟩
    all_goals exact nomatch h
  | ldy o =>
    rcases o with b | (b | b | b | w | w | w | b | b)
    case imm | mem.zp | mem.zpx | mem.abs | mem.absx => exact ⟨_, rfl, Exists.intro _ ⟨rfl, rfl⟩⟩
    all_goals exact nomatch h
  | sta m =>
    cases m
    case zpy => exact nomatch h
    all_goals exact ⟨_, rfl, Exists.intro _ ⟨rfl, rfl⟩⟩
  | stx m =>
    cases m
    case zp | zpy | abs => exact ⟨_, rfl, Exists.intro _ ⟨rfl, rfl⟩⟩
    all_goals exact nomatch h
  | sty m =>
    cases m
    case zp | zpx | abs => exact ⟨_, rfl, Exists.intro _ ⟨rfl, rfl⟩⟩
    all_goals exact nomatch h
  | bit m =>
    cases m
    case zp | abs => exact ⟨_, rfl, Exists.intro _ ⟨rfl, rfl⟩⟩
    all_goals exact nomatch h
  | inc m | dec m =>
    cases m
    case zp | zpx | abs | absx => exact ⟨_, rfl, Exists.intro _ ⟨rfl, rfl⟩⟩
    all_goals exact nomatch h
  | asl o | lsr o | rol o | ror o =>
    rcases o with _ | (b | b | b | w | w | w | b | b)
    case acc => exact ⟨_, rfl, rfl, rfl⟩
    case mem.zp | mem.zpx | mem.abs | mem.absx => exact ⟨_, rfl, Exists.intro _ ⟨rfl, rfl⟩⟩
    all_goals exact nomatch h
  | bpl b | bmi b | bvc b | bvs b | bcc b | bcs b | bne b | beq b | jsr w => exact ⟨_, rfl, Exists.intro _ ⟨rfl, rfl⟩⟩
  | jmp t =>
    cases t with
    | abs w | ind w => exact ⟨_, rfl, Exists.intro _ ⟨rfl, rfl⟩⟩
  | inx | dex | iny | dey | tax | txa | tay | tya | tsx | txs | pha | pla | php | plp | brk | rti | rts | clc | sec | cld | sed
  | cli | sei | clv | nop => exact ⟨_, rfl, rfl, rfl⟩
  | illegal op =>
    refine ⟨op, if_pos h, ?_⟩
    rw [decodeOpcode_illegalByte (List.contains_iff_mem.1 h)]
    exact ⟨rfl, rfl⟩

/-- A format that reads an instruction decodes it from its operand bytes, and leaves what follows. -/
theorem decode_of_reads {op : Byte} {i : Instr} (h : (decodeOpcode op).Reads i) (rest : List Byte) :
    decode (op :: i.operandBytes ++ rest) = .ok (i, rest) := by
  cases hop : decodeOpcode op with
  | f1 j =>
    rw [hop] at h
    obtain ⟨rfl, hb⟩ := h
    rw [hb]
    exact decode_f1 hop _
  | f2 mk =>
    rw [hop] at h
    obtain ⟨b, rfl, hb⟩ := h
    rw [hb]
    exact decode_f2 hop _ _
  | f3 mk =>
    rw [hop] at h
    obtain ⟨w, rfl, hb⟩ := h
    have hd := decode_f3 hop (loByte w) (hiByte w) rest
    rw [word_hiByte_loByte] at hd
    rw [hb]
    exact hd

/-! ### The statements -/

/-- Settles O2: the opcode selects the format that reads the instruction from its operand bytes. -/
theorem decodeOfEncodeIsTheInstruction : Obligations.DecodeOfEncodeIsTheInstruction := by
  intro i rest hwf
  obtain ⟨op, hop, hreads⟩ := opcode_selects hwf
  rw [encode, hop]
  exact decode_of_reads hreads rest

/-- Settles O3: what decodes is built by an entry of the opcode map, and every entry builds well-formed instructions with that
opcode and those operand bytes. -/
theorem encodeOfDecodeIsTheBytes : Obligations.EncodeOfDecodeIsTheBytes := by
  intro bytes rest i h
  obtain ⟨op, b1, b2, rfl, rfl⟩ := decode_eq_ok h
  rw [encode_decodeBytes]
  exact ⟨decodeBytes_wellFormed op b1 b2, rfl⟩

/-- Settles O4: what decodes is well-formed, which for an illegal instruction is to be listed; a listed byte has no entry in the
map. -/
theorem illegalBytesAreTheListedOnes : Obligations.IllegalBytesAreTheListedOnes := by
  refine ⟨rfl, by decide, fun op b1 b2 => ⟨fun h => ?_, fun h => ?_⟩⟩
  · have hwf := decodeBytes_wellFormed op b1 b2
    rw [h] at hwf
    exact List.contains_iff_mem.1 hwf
  · rw [decodeBytes, decodeOpcode_illegalByte h]
    rfl

/-- Settles O1: each list is decoded by looking its opcode up. -/
theorem wordsOfTheMapDecode : Obligations.WordsOfTheMapDecode :=
  ⟨rfl, rfl, rfl, rfl, rfl, rfl, rfl, rfl, rfl⟩

namespace Machine

/-- An immediate operand that stands at PC is the byte after the opcode (R102). -/
theorem State.read_of_operandBytes {s : State} {b : Byte} (h : s.instrAtPC.operandBytes = [b]) :
    s.mem.read (s.pc + 1).toNat = b := by
  rw [State.instrAtPC, decodeBytes_operandBytes] at h
  cases hf : decodeOpcode (s.mem.read s.pc.toNat) with
  | f1 i => rw [hf] at h; exact nomatch h
  | f2 mk => rw [hf] at h; exact (List.cons.inj h).1
  | f3 mk => rw [hf] at h; exact nomatch (List.cons.inj h).2

/-- Settles O7: an instruction with an immediate operand has that byte for its only operand byte; a memory operand is read at the
effective address. -/
theorem operandIsTheByteTheModeGives : Obligations.OperandIsTheByteTheModeGives := by
  refine ⟨fun s b hi => (State.read_of_operandBytes ?_).symm, fun _ _ => rfl⟩
  simp only [List.mem_cons, List.not_mem_nil, or_false] at hi
  obtain h | h | h | h | h | h | h | h | h | h | h := hi <;> rw [h] <;> rfl

/-- Settles O49: the three bytes at PC decode to `instrAtPC`; the rest is the definition of `step` past the loop's exit. -/
theorem stepRunsTheDecodedInstruction : Obligations.StepRunsTheDecodedInstruction := by
  intro s i hr h
  have hgo : (s.inFlight.isNone && s.atLoopExit) = false := by
    obtain ⟨_, -, hx, -⟩ | ⟨f, hf, -⟩ := h
    · rw [hx, Bool.and_false]
    · rw [hf]; rfl
  have hi : s.currentInstr = i := by
    obtain ⟨rest, hf, -, hd⟩ | ⟨f, hf, rfl⟩ := h
    · obtain ⟨rest', hd'⟩ := decode_three (s.mem.read s.pc.toNat) (s.mem.read (s.pc + 1).toNat) (s.mem.read (s.pc + 2).toNat)
      rw [State.currentInstr_of_none hf]
      exact (Prod.mk.inj (Except.ok.inj (hd'.symm.trans hd))).1
    · rw [State.currentInstr, hf]
  rw [step, hr, hgo, hi]
  rfl

end Machine

end Sys2Proof
end

section
/-! What an instruction writes, said once (10_state.md R21 to R23, R38, R40): its gated cycles reach the machine only through the
writes the tables name for it. -/

namespace Sys2Proof.Machine

/-- The status byte `q` differs from `p` only in the flags `fs`. -/
def FlagsKeptBut (fs : List Flag) (p q : Byte) : Prop := ∀ f, f ∉ fs → getFlag q f = getFlag p f

/-- Flags that are not among those written keep their values. -/
theorem FlagsBecome.keptBut {p q : Byte} {ws : List (Flag × Bool)} (h : FlagsBecome p q ws) {fs : List Flag}
    (hws : ∀ w ∈ ws, w.1 ∈ fs) : FlagsKeptBut fs p q := by
  intro f hf
  rw [h f]
  clear h
  induction ws with
  | nil => rfl
  | cons w ws ih =>
    have hne : f ≠ w.1 := fun hfw => hf (hfw ▸ hws w (by simp))
    rw [flagAfter, if_neg hne]
    exact ih fun v hv => hws v (by simp [hv])

theorem flagsKeptBut_setZN (p v : Byte) : FlagsKeptBut [.n, .z] p (setZN p v) :=
  (flagsBecome_setZN p v).keptBut (by simp)

theorem flagsKeptBut_arithFlags (p old r : Byte) (carry : Bool) : FlagsKeptBut [.n, .v, .z, .c] p (arithFlags p old r carry) :=
  (flagsBecome_arithFlags p old r carry).keptBut (by simp)

theorem flagsKeptBut_compareFlags (p reg m : Byte) : FlagsKeptBut [.n, .z, .c] p (compareFlags p reg m) :=
  (flagsBecome_compareFlags p reg m).keptBut (by simp)

theorem flagsKeptBut_bitFlags (p a m : Byte) : FlagsKeptBut [.n, .v, .z] p (bitFlags p a m) :=
  (flagsBecome_bitFlags p a m).keptBut (by simp)

theorem flagsKeptBut_shiftLeft (cin : Bool) (v p : Byte) : FlagsKeptBut [.n, .z, .c] p (shiftLeft cin v p).2 :=
  (flagsBecome_leftShiftFlags p _ _).keptBut (by simp)

theorem flagsKeptBut_shiftRight (cin : Bool) (v p : Byte) : FlagsKeptBut [.n, .z, .c] p (shiftRight cin v p).2 :=
  (flagsBecome_rightShiftFlags p _ _).keptBut (by simp)

theorem flagsKeptBut_putFlag (p : Byte) (f : Flag) (val : Bool) : FlagsKeptBut [f] p (putFlag p f val) :=
  (flagsBecome_putFlag p f val).keptBut (by simp)

theorem flagsKeptBut_all (p q : Byte) : FlagsKeptBut [.n, .v, .u, .b, .d, .i, .z, .c] p q := by
  intro f hf
  cases f <;> simp at hf

/-- The instruction has an address to store a byte to. -/
def Stores (i : Instr) : Prop := ∃ u, i.storesAt u ≠ []

/-- The property is kept by the writes the tables name for the instruction: PC, memory where it stores, the registers it may
write, status bytes that differ in its flags alone, and an illegal byte's report. -/
structure KeptByWritesOf (i : Instr) (P : State → Prop) : Prop where
  pc : ∀ s v, P s → P (s.setPC v)
  mem : Stores i → ∀ s k v, P s → P (s.memWrite k v)
  sp : i.writesS = true → ∀ s v, P s → P (s.setSP v)
  a : i.writesA = true → ∀ s v, P s → P (s.setA v)
  x : i.writesX = true → ∀ s v, P s → P (s.setX v)
  y : i.writesY = true → ∀ s v, P s → P (s.setY v)
  p : ∀ s v, FlagsKeptBut i.flagsWritten s.p v → P s → P (s.setP v)
  report : ∀ op, i = .illegal op → ∀ s k, P s → P (s.report (.illegalOpcode op k))

/-- An instruction that stores at an address stores. -/
theorem Stores.of_cons {i : Instr} {a : State → Addr} {as : State → List Addr} (h : i.storesAt = fun u => a u :: as u) :
    Stores i := ⟨.reset, by rw [h]; exact List.cons_ne_nil _ _⟩

theorem KeptByWritesOf.push {i : Instr} {P : State → Prop} (h : KeptByWritesOf i P) (hi : i.writesS = true) (hm : Stores i)
    (s : State) (v : Byte) (hs : P s) : P (s.push v) := h.sp hi _ _ (h.mem hm _ _ _ hs)

theorem KeptByWritesOf.raiseSP {i : Instr} {P : State → Prop} (h : KeptByWritesOf i P) (hi : i.writesS = true) (s : State)
    (hs : P s) : P s.raiseSP := h.sp hi _ _ hs

theorem KeptByWritesOf.updateZN {i : Instr} {P : State → Prop} (h : KeptByWritesOf i P) (hi : i.flagsWritten = [.n, .z])
    (s : State) (v : Byte) (hs : P s) : P (s.updateZN v) := h.p _ _ (hi ▸ flagsKeptBut_setZN _ _) hs

theorem KeptByWritesOf.setFlag {i : Instr} {P : State → Prop} (h : KeptByWritesOf i P) {f : Flag} (hi : i.flagsWritten = [f])
    (s : State) (val : Bool) (hs : P s) : P (s.setFlag f val) := h.p _ _ (hi ▸ flagsKeptBut_putFlag _ _ _) hs

/-- The cycles of a shift keep what its writes keep: A in the accumulator form, memory in the others, and the flags of its
result. -/
theorem KeptByWritesOf.shiftCycles {i : Instr} {P : State → Prop} (h : KeptByWritesOf i P) {o : ShiftOperand}
    {f : Byte → Byte → Byte × Byte} (ha : o = .acc → i.writesA = true)
    (hm : ∀ m, o = .mem m → Stores i) (hf : ∀ v p, FlagsKeptBut i.flagsWritten p (f v p).2) (p : Byte) : CyclesKeep P (shiftCycles o p f) :=
  shiftCycles_keep h.pc o p f (fun ho s hs => h.p _ _ (hf s.a s.p) (h.a (ha ho) _ _ hs)) (fun _ _ s hs => h.p s _ (hf _ _) hs)
    fun m ho _ hs => h.mem (hm m ho) _ _ _ hs

/-- The gated cycles of an instruction make only the writes the tables name for it. -/
theorem exec_writes (i : Instr) : ∃ cycles : Byte → Addr → List Cycle,
    (∀ s, exec i s = s.pace i (cycles s.foundP s.opAddr)) ∧ ∀ p r P, KeptByWritesOf i P → CyclesKeep P (cycles p r) := by
  cases i with
  | ora o | and o | eor o | lda o =>
    exact ⟨fun _ _ => readCycles o _, fun _ => rfl,
      fun _ _ _ h => readCycles_keep h.pc o fun _ _ hs => h.updateZN rfl _ _ (h.a rfl _ _ hs)⟩
  | adc o | sbc o =>
    exact ⟨fun _ _ => readCycles o _, fun _ => rfl,
      fun _ _ _ h => readCycles_keep h.pc o fun _ _ hs => h.p _ _ (flagsKeptBut_arithFlags _ _ _ _) (h.a rfl _ _ hs)⟩
  | ldx o =>
    exact ⟨fun _ _ => readCycles o _, fun _ => rfl,
      fun _ _ _ h => readCycles_keep h.pc o fun _ _ hs => h.updateZN rfl _ _ (h.x rfl _ _ hs)⟩
  | ldy o =>
    exact ⟨fun _ _ => readCycles o _, fun _ => rfl,
      fun _ _ _ h => readCycles_keep h.pc o fun _ _ hs => h.updateZN rfl _ _ (h.y rfl _ _ hs)⟩
  | cmp o | cpx o | cpy o =>
    exact ⟨fun _ _ => readCycles o _, fun _ => rfl,
      fun _ _ _ h => readCycles_keep h.pc o fun _ _ hs => h.p _ _ (flagsKeptBut_compareFlags _ _ _) hs⟩
  | bit m =>
    exact ⟨fun _ _ => readCycles (.mem m) _, fun _ => rfl,
      fun _ _ _ h => readCycles_keep h.pc _ fun _ _ hs => h.p _ _ (flagsKeptBut_bitFlags _ _ _) hs⟩
  | sta m | stx m | sty m =>
    exact ⟨fun _ _ => storeCycles m _, fun _ => rfl, fun _ _ _ h => storeCycles_keep h.pc m fun _ hs => h.mem (.of_cons rfl) _ _ _ hs⟩
  | inc m | dec m =>
    exact ⟨fun p _ => modifyCycles m p _, fun _ => rfl,
      fun _ _ _ h => modifyCycles_keep h.pc m _ _ (fun _ hs => h.updateZN rfl _ _ hs) fun _ hs => h.mem (.of_cons rfl) _ _ _ hs⟩
  | asl o | rol o =>
    exact ⟨fun p _ => shiftCycles o p _, fun _ => rfl,
      fun p _ _ h => h.shiftCycles (by rintro rfl; rfl) (by rintro m rfl; exact .of_cons rfl) (fun _ _ => flagsKeptBut_shiftLeft _ _ _) p⟩
  | lsr o | ror o =>
    exact ⟨fun p _ => shiftCycles o p _, fun _ => rfl,
      fun p _ _ h => h.shiftCycles (by rintro rfl; rfl) (by rintro m rfl; exact .of_cons rfl) (fun _ _ => flagsKeptBut_shiftRight _ _ _) p⟩
  | inx | dex | tax | tsx =>
    exact ⟨fun _ _ => impliedCycles _, fun _ => rfl,
      fun _ _ _ h => impliedCycles_keep h.pc fun _ hs => h.updateZN rfl _ _ (h.x rfl _ _ hs)⟩
  | iny | dey | tay =>
    exact ⟨fun _ _ => impliedCycles _, fun _ => rfl,
      fun _ _ _ h => impliedCycles_keep h.pc fun _ hs => h.updateZN rfl _ _ (h.y rfl _ _ hs)⟩
  | txa | tya =>
    exact ⟨fun _ _ => impliedCycles _, fun _ => rfl,
      fun _ _ _ h => impliedCycles_keep h.pc fun _ hs => h.updateZN rfl _ _ (h.a rfl _ _ hs)⟩
  | txs =>
    exact ⟨fun _ _ => impliedCycles _, fun _ => rfl, fun _ _ _ h => impliedCycles_keep h.pc fun _ hs => h.sp rfl _ _ hs⟩
  | clc | sec | cld | sed | cli | sei | clv =>
    exact ⟨fun _ _ => impliedCycles _, fun _ => rfl, fun _ _ _ h => impliedCycles_keep h.pc fun _ hs => h.setFlag rfl _ _ hs⟩
  | pha | php =>
    exact ⟨fun _ _ => pushCycles _, fun _ => rfl, fun _ _ _ h => pushCycles_keep h.pc fun _ hs => h.push rfl (.of_cons rfl) _ _ hs⟩
  | pla =>
    exact ⟨fun _ _ => pullCycles _, fun _ => rfl,
      fun _ _ _ h => pullCycles_keep h.pc (h.raiseSP rfl) fun _ _ hs => h.updateZN rfl _ _ (h.a rfl _ _ hs)⟩
  | plp =>
    exact ⟨fun _ _ => pullCycles _, fun _ => rfl,
      fun _ _ _ h => pullCycles_keep h.pc (h.raiseSP rfl) fun _ _ hs => h.p _ _ (flagsKeptBut_all _ _) hs⟩
  | bpl b | bmi b | bvc b | bvs b | bcc b | bcs b | bne b | beq b =>
    exact ⟨fun _ _ => branchCycles b _, fun _ => rfl, fun _ _ _ h => branchCycles_keep h.pc b _⟩
  | brk =>
    have htrap : ∀ p, FlagsKeptBut Instr.brk.flagsWritten p (putFlag (putFlag p .b true) .i true) := fun p =>
      (flagsBecome_trapFlags p).keptBut (by simp [Instr.flagsWritten])
    exact ⟨fun _ r => enterTrap (r + 2), fun _ => rfl,
      fun _ _ _ h => enterTrap_keep h.pc _ (fun s hs => h.p s _ (htrap s.p) hs) (fun s v hs => h.push rfl (.of_cons rfl) s v hs)⟩
  | rti =>
    exact ⟨fun _ _ => returnFromTrap, fun _ => rfl,
      fun _ _ _ h => returnFromTrap_keep h.pc (h.raiseSP rfl) fun s v hs => h.p s v (flagsKeptBut_all _ _) hs⟩
  | jsr w =>
    exact ⟨fun _ _ => _, fun _ => rfl,
      fun _ _ _ h => cyclesKeep_cons (fun _ hs => h.pc _ _ hs) (cyclesKeep_cons (fun _ hs => h.pc _ _ hs)
        (cyclesKeep_cons (fun _ hs => h.pc _ _ hs) (cyclesKeep_cons (fun _ hs => h.push rfl (.of_cons rfl) _ _ hs)
          (cyclesKeep_cons (fun _ hs => h.pc _ _ (h.push rfl (.of_cons rfl) _ _ hs)) cyclesKeep_nil))))⟩
  | rts =>
    exact ⟨fun _ _ => _, fun _ => rfl,
      fun _ _ _ h => cyclesKeep_cons (fun _ hs => h.raiseSP rfl _ (h.pc _ _ hs)) (cyclesKeep_cons (h.raiseSP rfl)
        (cyclesKeep_cons (fun _ hs => h.pc _ _ hs) cyclesKeep_nil))⟩
  | jmp t =>
    cases t with
    | abs w =>
      exact ⟨fun _ _ => _, fun _ => rfl,
        fun _ _ _ h => cyclesKeep_cons (fun _ hs => h.pc _ _ hs) (cyclesKeep_cons (fun _ hs => h.pc _ _ hs)
          (cyclesKeep_cons (fun _ hs => h.pc _ _ hs) cyclesKeep_nil))⟩
    | ind w =>
      exact ⟨fun _ _ => _, fun _ => rfl,
        fun _ _ _ h => cyclesKeep_cons (fun _ hs => h.pc _ _ hs) (cyclesKeep_cons (fun _ hs => h.pc _ _ hs)
          (cyclesKeep_cons (fun _ hs => h.pc _ _ hs) (cyclesKeep_cons (fun _ hs => hs)
            (cyclesKeep_cons (fun _ hs => h.pc _ _ hs) cyclesKeep_nil))))⟩
  | nop =>
    exact ⟨fun _ _ => [State.fetchByte], fun _ => rfl,
      fun _ _ _ h => cyclesKeep_cons (fun _ hs => h.pc _ _ hs) cyclesKeep_nil⟩
  | illegal op =>
    exact ⟨fun _ _ => [_], fun _ => rfl,
      fun _ _ _ h => cyclesKeep_cons (fun _ hs => h.report op rfl _ _ (h.pc _ _ hs)) cyclesKeep_nil⟩

/-! ### What the writes leave alone -/

/-- What a next state `t` that the instruction answers in `s` has in common with `s`. -/
structure Leaves (i : Instr) (s t : State) : Prop where
  flags : FlagsKeptBut i.flagsWritten s.p t.p
  a : i.writesA = false → t.a = s.a
  x : i.writesX = false → t.x = s.x
  y : i.writesY = false → t.y = s.y
  sp : i.writesS = false → t.sp = s.sp
  mem : ¬ Stores i → t.mem = s.mem
  stopRequested : t.stopRequested = s.stopRequested
  running : t.running = s.running
  executed : t.executed = s.executed
  cfg : t.cfg = s.cfg
  reports : (∀ op, i ≠ .illegal op) → t.reports = s.reports
  notImplemented : ∀ op k, Report.notImplemented op k ∈ t.reports → Report.notImplemented op k ∈ s.reports

theorem Leaves.refl (i : Instr) (s : State) : Leaves i s s where
  flags _ _ := rfl
  a _ := rfl
  x _ := rfl
  y _ := rfl
  sp _ := rfl
  mem _ := rfl
  stopRequested := rfl
  running := rfl
  executed := rfl
  cfg := rfl
  reports _ := rfl
  notImplemented _ _ h := h

/-- The named writes of an instruction keep what it leaves alone. -/
theorem leaves_keptByWritesOf (i : Instr) (s : State) : KeptByWritesOf i (Leaves i s) where
  pc _ _ h := { h with }
  mem hi _ _ _ h := { h with mem := fun hn => absurd hi hn }
  sp hi _ _ h := { h with sp := fun hn => nomatch hn.symm.trans hi }
  a hi _ _ h := { h with a := fun hn => nomatch hn.symm.trans hi }
  x hi _ _ h := { h with x := fun hn => nomatch hn.symm.trans hi }
  y hi _ _ h := { h with y := fun hn => nomatch hn.symm.trans hi }
  p _ _ hk h := { h with flags := fun f hf => (hk f hf).trans (h.flags f hf) }
  report op ho u k h :=
    { h with
      reports := fun hi => absurd ho (hi op)
      notImplemented := fun op' k' hm => by
        rw [State.report_reports, List.mem_append, List.mem_singleton] at hm
        exact h.notImplemented op' k' (hm.resolve_right (by simp)) }

/-- Every next state of an instruction agrees with the state before it in all that the tables do not name. -/
theorem exec_leaves {i : Instr} {s t : State} (h : exec i s = .next t) : Leaves i s t := by
  obtain ⟨cycles, he, hk⟩ := exec_writes i
  exact State.pace_keep (hk _ _ _ (leaves_keptByWritesOf i s)) (fun _ _ _ hu => { hu with }) (he s ▸ h) (Leaves.refl i s)

/-! ### The statements -/

/-- Settles O33: the writes an instruction makes to P keep the flags that are not named for it. -/
theorem onlyTheNamedFlagsChange : Obligations.OnlyTheNamedFlagsChange := fun _ _ _ f h =>
  (exec_leaves h).flags f

/-- Settles O34: an instruction makes no write to a register it is not named for. -/
theorem onlyTheNamedRegistersChange : Obligations.OnlyTheNamedRegistersChange := by
  intro i s t h
  have hl := exec_leaves h
  exact ⟨hl.a, hl.x, hl.y, hl.sp⟩

/-- Settles O37: no write is to the loop state or the parameters, and the only report is an illegal byte's. -/
theorem instructionsLeaveTheLoopStateAlone : Obligations.InstructionsLeaveTheLoopStateAlone := by
  intro i s t h
  have hl := exec_leaves h
  exact ⟨hl.stopRequested, hl.running, hl.executed, hl.cfg, hl.reports⟩

end Sys2Proof.Machine
end

section
/-! The gate (60_exceptions.md R321 to R331): what one gated cycle does in either mode, gated cycles in a row, and what they do not
read. -/

namespace Sys2Proof.Machine

/-! ### One gated cycle -/

/-- The driver makes no call where the CPU waits for one: it stands inside a call already, or has none left. -/
def State.driverStays (s : State) : Bool := s.driverWaiting || s.driverCalls == some 0

/-- An AlwaysOpen gate passes every cycle and changes the count and the CPU's place alone (R323). -/
theorem State.gatedCycle_of_alwaysOpen {s : State} (ho : s.cfg.gateMode = .alwaysOpen) :
    s.gatedCycle = some { s with cycleCount := s.cycleCount + 1 - s.counted, inFlight := none } := by
  simp [State.gatedCycle, State.enterBegin_eq, State.driverBegin, State.enterEnd, State.exitCycle, State.driverEnd, ho]

/-- A Handshake gate passes a cycle on a `go` that is set or that the driver sets; `done` stays set only where no call takes
it (R325, R329). -/
theorem State.gatedCycle_of_handshake {s : State} (hm : s.cfg.gateMode = .handshake) :
    s.gatedCycle =
      if s.go || !s.driverStays then
        some { s with
          cycleCount := s.cycleCount + 1 - s.counted
          inFlight := none
          go := false
          done := s.driverStays && !s.driverWaiting
          driverWaiting := false
          driverCalls := if s.driverStays then s.driverCalls else s.driverCalls.map (· - 1) }
      else none := by
  unfold State.driverStays
  cases hw : s.driverWaiting <;> cases hc : s.driverCalls == some 0 <;> cases hg : s.go <;>
    simp [State.gatedCycle, State.enterBegin_eq, State.driverBegin, State.startCycle, State.enterEnd, State.exitCycle,
      State.driverEnd, hm, hw, hc, hg]

/-! ### What the gate does not read -/

/-- The gate meets the two machines alike: the same count inside `enter_cycle`, the same signals, driver and mode. -/
structure State.SameGate (s t : State) : Prop where
  count : s.cycleCount + 1 - s.counted = t.cycleCount + 1 - t.counted
  go : s.go = t.go
  done : s.done = t.done
  driverCalls : s.driverCalls = t.driverCalls
  driverWaiting : s.driverWaiting = t.driverWaiting
  mode : s.cfg.gateMode = t.cfg.gateMode

theorem State.SameGate.driverStays {s t : State} (h : s.SameGate t) : s.driverStays = t.driverStays := by
  rw [State.driverStays, State.driverStays, h.driverWaiting, h.driverCalls]

theorem State.SameGate.withGate_eq {s t : State} (h : s.SameGate t) (hc : s.cycleCount = t.cycleCount) (u : State) :
    u.withGate s = u.withGate t := by
  simp only [State.withGate, hc, h.go, h.done, h.driverCalls, h.driverWaiting]

theorem State.SameGate.withGate_enterBegin {s t : State} (h : s.SameGate t) (u : State) :
    u.withGate s.enterBegin = u.withGate t.enterBegin := by
  simp only [State.enterBegin_eq, State.withGate, h.count, h.go, h.done, h.driverCalls, h.driverWaiting]

/-- A cycle passes on both machines or on neither, and leaves them alike, with the same count. -/
theorem State.SameGate.gatedCycle {s t : State} (h : s.SameGate t) :
    (s.gatedCycle = none ∧ t.gatedCycle = none) ∨
      ∃ g k, s.gatedCycle = some g ∧ t.gatedCycle = some k ∧ g.SameGate k ∧ g.cycleCount = k.cycleCount := by
  cases hm : s.cfg.gateMode with
  | alwaysOpen =>
    refine .inr ⟨_, _, State.gatedCycle_of_alwaysOpen hm, State.gatedCycle_of_alwaysOpen (h.mode ▸ hm), ⟨?_, ?_, ?_, ?_, ?_, ?_⟩, h.count⟩
    · exact congrArg (· + 1) h.count
    · exact h.go
    · exact h.done
    · exact h.driverCalls
    · exact h.driverWaiting
    · exact h.mode
  | handshake =>
    rw [State.gatedCycle_of_handshake hm, State.gatedCycle_of_handshake (h.mode ▸ hm), ← h.go, ← h.driverStays]
    split
    · refine .inr ⟨_, _, rfl, rfl, ⟨congrArg (· + 1) h.count, rfl, ?_, ?_, rfl, h.mode⟩, h.count⟩
      · exact congrArg (s.driverStays && !·) h.driverWaiting
      · simp only [h.driverCalls]
    · exact .inl ⟨rfl, rfl⟩

/-- Gated cycles in a row pass alike, and leave the same gate; with no cycle to pass, the counts have to agree. -/
theorem State.SameGate.gatedCycles {s t : State} (h : s.SameGate t) {n : Nat} (hn : n = 0 → s.cycleCount = t.cycleCount) :
    (s.gatedCycles n).1 = (t.gatedCycles n).1 ∧
      ∀ u : State, u.withGate (s.gatedCycles n).2 = u.withGate (t.gatedCycles n).2 := by
  induction n generalizing s t with
  | zero => exact ⟨rfl, h.withGate_eq (hn rfl)⟩
  | succ n ih =>
    rw [State.gatedCycles, State.gatedCycles]
    obtain ⟨hs, ht⟩ | ⟨g, k, hs, ht, hgk, hc⟩ := h.gatedCycle
    · rw [hs, ht]
      exact ⟨rfl, h.withGate_enterBegin⟩
    · rw [hs, ht]
      exact ⟨congrArg (· + 1) (ih hgk fun _ => hc).1, (ih hgk fun _ => hc).2⟩

/-! ### Gated cycles in a row -/

/-- An AlwaysOpen gate passes any number of cycles, and changes the count and the CPU's place alone. -/
theorem State.gatedCycles_of_alwaysOpen {s : State} (ho : s.cfg.gateMode = .alwaysOpen) (n : Nat) :
    ∃ f, s.gatedCycles n =
      (n, { s with cycleCount := if n = 0 then s.cycleCount else s.cycleCount + n - s.counted, inFlight := f }) := by
  cases n with
  | zero => exact ⟨s.inFlight, rfl⟩
  | succ n =>
    have hcounted : s.counted ≤ 1 := by unfold State.counted; split <;> decide
    have hcount : s.cycleCount + 1 - s.counted + n = s.cycleCount + (n + 1) - s.counted := by omega
    rw [State.gatedCycles, State.gatedCycle_of_alwaysOpen ho]
    simp only
    rw [State.gatedCycles_alwaysOpen (by exact ho) rfl n]
    exact ⟨none, by simp [hcount]⟩

/-- Cycles that pass behind any gate pass behind an AlwaysOpen one with the same count. -/
theorem State.gatedCycles_openGate {s g : State} {n : Nat} (h : s.gatedCycles n = (n, g)) :
    ∃ f, s.openGate.gatedCycles n = (n, { s.openGate with cycleCount := g.cycleCount, inFlight := f }) := by
  have hcount := State.gatedCycles_count n s
  rw [h, if_pos rfl] at hcount
  obtain ⟨f, hopen⟩ := State.gatedCycles_of_alwaysOpen (s := s.openGate) rfl n
  refine ⟨f, ?_⟩
  rw [hopen, hcount]
  rfl

/-- Cycles that pass and more cycles after them are one row of cycles. -/
theorem State.gatedCycles_add {s g : State} {k : Nat} (h : s.gatedCycles k = (k, g)) (m : Nat) :
    s.gatedCycles (k + m) = (k + (g.gatedCycles m).1, (g.gatedCycles m).2) := by
  induction k generalizing s with
  | zero =>
    obtain rfl := (Prod.mk.inj h).2
    simp only [Nat.zero_add]
  | succ k ih =>
    rw [Nat.succ_add, State.gatedCycles]
    rw [State.gatedCycles] at h
    cases ht : s.gatedCycle with
    | none =>
      rw [ht] at h
      exact nomatch (Prod.mk.inj h).1
    | some t =>
      rw [ht] at h
      obtain ⟨hk, hg⟩ := Prod.mk.inj h
      have hrest := ih (Prod.ext (Nat.succ.inj hk) hg)
      simp only [hrest, Nat.succ_add]

/-! ### The Handshake gate at rest -/

/-- The signals are clear, the driver outside `start_cycle` and the CPU outside `enter_cycle`, behind a Handshake gate. -/
theorem State.handshakeAtRest_iff {s : State} : s.handshakeAtRest = true ↔
    s.cfg.gateMode = .handshake ∧ s.go = false ∧ s.done = false ∧ s.driverWaiting = false ∧ s.inFlight = none := by
  simp [State.handshakeAtRest, and_assoc]

/-- A driver with a call left lets one cycle pass, and the gate is at rest again (R325, R329). -/
theorem State.gatedCycle_atRest {s : State} (h : s.handshakeAtRest = true) (hc : s.driverCalls ≠ some 0) :
    s.gatedCycle = some { s with cycleCount := s.cycleCount + 1, driverCalls := s.driverCalls.map (· - 1) } := by
  obtain ⟨hm, hgo, hdone, hwaiting, hf⟩ := State.handshakeAtRest_iff.1 h
  have hstays : s.driverStays = false := by simp [State.driverStays, hwaiting, hc]
  simp [State.gatedCycle_of_handshake hm, State.counted_none hf, hstays, hgo, hdone, hwaiting, hf]

/-- A CPU that finds `go` clear and no call to come stays blocked (R331). -/
theorem State.gatedCycle_blocked {s : State} (hm : s.cfg.gateMode = .handshake) (hgo : s.go = false)
    (hc : s.driverCalls = some 0) : s.gatedCycle = none := by
  simp [State.gatedCycle_of_handshake hm, State.driverStays, hgo, hc]

/-- As many cycles pass as the driver makes calls. -/
theorem State.gatedCycles_atRest {s : State} {n : Nat} (h : s.handshakeAtRest = true)
    (hc : ∀ k, s.driverCalls = some k → n ≤ k) :
    s.gatedCycles n = (n, { s with cycleCount := s.cycleCount + n, driverCalls := s.driverCalls.map (· - n) }) := by
  induction n generalizing s with
  | zero => simp [State.gatedCycles]
  | succ n ih =>
    have hnext : s.driverCalls ≠ some 0 := fun h0 => absurd (hc 0 h0) (by simp)
    have hrest := ih (s := { s with cycleCount := s.cycleCount + 1, driverCalls := s.driverCalls.map (· - 1) }) h (by
      intro k hk
      obtain ⟨c, hc', rfl⟩ := Option.map_eq_some_iff.1 hk
      have := hc c hc'
      omega)
    have hcalls : ∀ c, c - 1 - n = c - (n + 1) := by omega
    rw [State.gatedCycles, State.gatedCycle_atRest h hnext]
    simp only [hrest, Option.map_map, Function.comp_def, hcalls, Nat.add_assoc, Nat.add_comm 1 n]

/-- Where no cycle passes, the CPU stands counted in the first (R321, R331). -/
theorem State.gatedCycles_blocked {s : State} (hf : s.inFlight = none) (hs : s.gatedCycle = none) (n : Nat) :
    s.gatedCycles (n + 1) = (0, { s with cycleCount := s.cycleCount + 1 }) := by
  rw [State.gatedCycles, hs, ← State.enterBegin_of_none hf]

/-- Where the driver makes fewer calls, the CPU stands counted in the cycle after them (R321, R331). -/
theorem State.gatedCycles_stall {s : State} {k n : Nat} (h : s.handshakeAtRest = true) (hc : s.driverCalls = some k)
    (hn : k < n) : s.gatedCycles n = (k, { s with cycleCount := s.cycleCount + k + 1, driverCalls := some 0 }) := by
  obtain ⟨hm, hgo, -, -, hf⟩ := State.handshakeAtRest_iff.1 h
  obtain ⟨m, rfl⟩ := Nat.exists_eq_add_of_lt hn
  have hpassed := State.gatedCycles_atRest (n := k) h fun j hj => (Option.some.inj (hc.symm.trans hj)).le
  rw [hc, Option.map_some, Nat.sub_self] at hpassed
  rw [Nat.add_assoc, State.gatedCycles_add hpassed,
    State.gatedCycles_blocked (by exact hf) (State.gatedCycle_blocked (by exact hm) (by exact hgo) rfl)]
  rfl

/-! ### An instruction behind the gate -/

section
variable {s g : State} {i : Instr} {cycles : List Cycle}

/-- An instruction whose remaining cycles all pass is complete. -/
theorem State.pace_all (hg : s.gatedCycles (cycles.drop s.passed).length = ((cycles.drop s.passed).length, g)) :
    s.pace i cycles = .next { (s.runCycles (cycles.drop s.passed)).withGate g with inFlight := none } := by
  simp only [State.pace, hg, List.take_length, if_true]

/-- An instruction some of whose cycles pass is complete, or stands in the cycle after them (R331). -/
theorem State.pace_progress {k : Nat} (hg : s.gatedCycles (cycles.drop s.passed).length = (k, g))
    (hk : s.inFlight = none ∨ k ≠ 0) :
    s.pace i cycles = .next { (s.runCycles ((cycles.drop s.passed).take k)).withGate g with
      inFlight :=
        if k = (cycles.drop s.passed).length then none
        else some { instr := i, opAddr := s.opAddr, op := s.op, p := s.foundP, passed := s.passed + k } } := by
  have hmoves : ¬(k = 0 ∧ s.inFlight.isSome = true) := by
    rintro ⟨h0, hf⟩
    obtain hn | hk := hk
    · rw [hn] at hf
      exact nomatch hf
    · exact hk h0
  simp only [State.pace, hg, if_neg hmoves]
  split
  · rfl
  · rfl

/-- An instruction that stands inside `enter_cycle` and is not released has no step (R331). -/
theorem State.pace_blocked {f : InFlight} (hf : s.inFlight = some f) (hn : f.passed < cycles.length)
    (hg : s.gatedCycle = none) : s.pace i cycles = .fault .gateStall := by
  have hpassed : s.passed = f.passed := by rw [State.passed, hf]
  obtain ⟨m, hm⟩ : ∃ m, (cycles.drop s.passed).length = m + 1 :=
    Nat.exists_eq_add_one_of_ne_zero (by rw [List.length_drop, hpassed]; omega)
  have h0 : s.gatedCycles (m + 1) = (0, s.enterBegin) := by rw [State.gatedCycles, hg]
  simp [State.pace, hm, h0, hf]

end

/-- Cycles leave the parameters alone. -/
theorem State.runCycles_cfg {cs : List Cycle} (h : ∀ P, KeptByWrites P → CyclesKeep P cs) (s : State) :
    (s.runCycles cs).cfg = s.cfg := by
  have hw : KeptByWrites fun u => u.cfg = s.cfg :=
    ⟨fun _ _ h => h, fun _ _ h => h, fun _ _ h => h, fun _ _ h => h, fun _ _ h => h, fun _ _ h => h, fun _ _ _ h => h,
      fun _ _ h => h⟩
  exact State.runCycles_keeps (h _ hw) rfl

/-- An instruction that completes does so with all its remaining cycles passed. -/
theorem State.pace_next_complete {s t : State} {i : Instr} {cycles : List Cycle} (h : s.pace i cycles = .next t)
    (ht : t.inFlight = none) : ∃ g,
      s.gatedCycles (cycles.drop s.passed).length = ((cycles.drop s.passed).length, g) ∧
      t = { (s.runCycles (cycles.drop s.passed)).withGate g with inFlight := none } := by
  obtain ⟨k, g, f, hg, rfl, ⟨rfl, rfl⟩ | ⟨-, -, rfl⟩⟩ := State.pace_next h
  · exact ⟨g, hg, by rw [List.take_length]⟩
  · exact nomatch ht

/-- What completes behind any gate completes behind an AlwaysOpen one, and differs only in what the gate holds (R330). -/
theorem State.pace_openGate {s t : State} {i : Instr} {cycles : List Cycle} (hk : ∀ P, KeptByWrites P → CyclesKeep P cycles)
    (hb : CyclesBlind cycles) (h : s.pace i cycles = .next t) (ht : t.inFlight = none) :
    s.openGate.pace i cycles = .next ((t.openGate.withGate s).withCount t.cycleCount) := by
  obtain ⟨g, hg, rfl⟩ := State.pace_next_complete h ht
  have htodo : ∀ c ∈ cycles.drop s.passed, c ∈ cycles := fun _ => List.mem_of_mem_drop
  have hcfg := State.runCycles_cfg (cs := cycles.drop s.passed) (fun P hP c hc => hk P hP c (htodo c hc)) s
  have hwork : s.openGate.runCycles (cycles.drop s.passed) =
      (s.runCycles (cycles.drop s.passed)).behind s s.inFlight s.openGate.cfg :=
    State.runCycles_behind (fun c hc => hb c (htodo c hc)) s s s.inFlight s.openGate.cfg
  obtain ⟨f, hopen⟩ := State.gatedCycles_openGate hg
  refine (State.pace_all (s := s.openGate) hopen).trans (congrArg Host.Outcome.next ?_)
  rw [show s.openGate.passed = s.passed from rfl, hwork]
  simp only [State.behind, State.openGate, State.withGate, State.withCount, hcfg]

/-- From its beginning, an instruction is complete, or stands in the cycle after those that pass. -/
theorem State.pace_begin {s g : State} {i : Instr} {cycles : List Cycle} {k : Nat} (hf : s.inFlight = none)
    (hg : s.gatedCycles cycles.length = (k, g)) :
    s.pace i cycles = .next { (s.runCycles (cycles.take k)).withGate g with
      inFlight :=
        if k = cycles.length then none
        else some { instr := i, opAddr := s.pc, op := s.mem.read s.pc.toNat, p := s.p, passed := k } } := by
  have hpassed : s.passed = 0 := by rw [State.passed, hf]
  have hprogress := State.pace_progress (s := s) (g := g) (i := i) (cycles := cycles) (k := k)
  rw [hpassed, List.drop_zero, State.opAddr_of_none hf, State.op_of_none hf, State.foundP_of_none hf, Nat.zero_add] at hprogress
  exact hprogress hg (.inl hf)

/-- Of `k` calls and more, the first `k` leave the others. -/
theorem State.gatedCycles_resumed {s : State} (h : s.handshakeAtRest = true) (k : Nat) (calls : Option Nat) :
    (s.withCalls (calls.map (k + ·))).gatedCycles k = (k, (s.withCount (s.cycleCount + k)).withCalls calls) := by
  have hfirst := State.gatedCycles_atRest (s := s.withCalls (calls.map (k + ·))) (n := k) h fun j hj => by
    obtain ⟨c, -, rfl⟩ := Option.map_eq_some_iff.1 hj
    exact Nat.le_add_right k c
  have hleft : (calls.map (k + ·)).map (· - k) = calls := by simp [Function.comp_def]
  rw [hfirst, show (s.withCalls (calls.map (k + ·))).driverCalls = calls.map (k + ·) from rfl, hleft]
  rfl

/-- The work of the cycles does not depend on the gate or the CPU's place it begins with. -/
theorem State.runCycles_behind_withGate {cs : List Cycle} (hkeep : ∀ P, KeptByWrites P → CyclesKeep P cs)
    (hb : CyclesBlind cs) {s S : State} (hS : S = s.behind S S.inFlight s.cfg) (g : State) (f : Option InFlight) :
    ({ (S.runCycles cs).withGate g with inFlight := f } : State) = { (s.runCycles cs).withGate g with inFlight := f } := by
  have hwork := State.runCycles_behind hb s S S.inFlight s.cfg
  rw [← hS] at hwork
  simp only [hwork, State.behind, State.withGate, State.runCycles_cfg hkeep s]

/-- The machine that stands in the instruction `i` of `s` after `k` of its cycles, which the driver's calls released. -/
def State.stalledAfter (s : State) (i : Instr) (cycles : List Cycle) (k : Nat) : State :=
  { (s.runCycles (cycles.take k)).withGate s with
    cycleCount := s.cycleCount + k + 1
    driverCalls := some 0
    inFlight := some { instr := i, opAddr := s.pc, op := s.mem.read s.pc.toNat, p := s.p, passed := k } }

/-- The gate meets a stalled CPU, whose waiting cycle is counted, as it meets the one whose passed cycles are (R334). -/
theorem State.stalledAfter_sameGate {s : State} {i : Instr} {cycles : List Cycle} {k : Nat} (hf : s.inFlight = none)
    (hcfg : (s.runCycles (cycles.take k)).cfg = s.cfg) (calls : Option Nat) :
    ((s.stalledAfter i cycles k).withCalls calls).SameGate ((s.withCount (s.cycleCount + k)).withCalls calls) where
  count := by
    rw [State.counted_none (s := (s.withCount (s.cycleCount + k)).withCalls calls) hf]
    rfl
  go := rfl
  done := rfl
  driverCalls := rfl
  driverWaiting := rfl
  mode := congrArg Config.gateMode hcfg

section
variable {s : State} {i : Instr} {cycles : List Cycle} {k : Nat} (h : s.handshakeAtRest = true) (hk : k < cycles.length)
include h hk

/-- From rest, an instruction stalls after the calls its driver makes (R331). -/
theorem State.pace_stall (hc : s.driverCalls = some k) : s.pace i cycles = .next (s.stalledAfter i cycles k) := by
  obtain ⟨-, -, -, -, hf⟩ := State.handshakeAtRest_iff.1 h
  rw [State.pace_begin hf (State.gatedCycles_stall h hc hk), if_neg hk.ne]
  rfl

omit h hk in
/-- A stalled instruction some of whose cycles pass has done the work of the first ones and theirs. -/
theorem State.pace_stalledAfter (hkeep : ∀ P, KeptByWrites P → CyclesKeep P cycles) (hb : CyclesBlind cycles)
    {calls : Option Nat} {j : Nat} {g : State} (hj : j ≠ 0)
    (hg : ((s.stalledAfter i cycles k).withCalls calls).gatedCycles (cycles.drop k).length = (j, g)) :
    ((s.stalledAfter i cycles k).withCalls calls).pace i cycles = .next { (s.runCycles (cycles.take (k + j))).withGate g with
      inFlight :=
        if j = (cycles.drop k).length then none
        else some { instr := i, opAddr := s.pc, op := s.mem.read s.pc.toNat, p := s.p, passed := k + j } } := by
  have hmem : ∀ c ∈ (cycles.drop k).take j, c ∈ cycles := fun c hc => List.mem_of_mem_drop (List.mem_of_mem_take hc)
  rw [List.take_add, State.runCycles_append]
  exact (State.pace_progress (s := (s.stalledAfter i cycles k).withCalls calls) hg (.inr hj)).trans (congrArg Host.Outcome.next
    (State.runCycles_behind_withGate (s := s.runCycles (cycles.take k)) (fun P hP c hc => hkeep P hP c (hmem c hc))
      (fun c hc => hb c (hmem c hc)) rfl _ _))

/-- With further calls, a stalled instruction goes on as if all its calls had come in a row (R334): the gate meets the stalled
CPU as it meets the one whose first `k` cycles have just passed. -/
theorem State.pace_resume (hkeep : ∀ P, KeptByWrites P → CyclesKeep P cycles) (hb : CyclesBlind cycles) {calls : Option Nat}
    (hcalls : calls ≠ some 0) :
    ((s.stalledAfter i cycles k).withCalls calls).pace i cycles = (s.withCalls (calls.map (k + ·))).pace i cycles := by
  obtain ⟨-, -, -, -, hf⟩ := State.handshakeAtRest_iff.1 h
  obtain ⟨m, hm⟩ : ∃ m, cycles.length = k + (m + 1) := Nat.exists_eq_add_of_lt hk
  have hfirst : (s.withCalls (calls.map (k + ·))).gatedCycles k = (k, (s.withCount (s.cycleCount + k)).withCalls calls) :=
    State.gatedCycles_resumed h k calls
  -- both runs from there
  have hcfg := State.runCycles_cfg (cs := cycles.take k) (fun P hP c hc => hkeep P hP c (List.mem_of_mem_take hc)) s
  obtain ⟨hnum, hgate⟩ :=
    (State.stalledAfter_sameGate (i := i) hf hcfg calls).gatedCycles (n := m + 1) (fun h0 => nomatch h0)
  obtain ⟨r, g, hrest⟩ : ∃ r g, ((s.withCount (s.cycleCount + k)).withCalls calls).gatedCycles (m + 1) = (r + 1, g) := by
    rw [State.gatedCycles, State.gatedCycle_atRest (by exact h) hcalls]
    exact ⟨_, _, rfl⟩
  have hrow := State.gatedCycles_add hfirst (m + 1)
  rw [hrest] at hnum hgate hrow
  have hlen : (cycles.drop k).length = m + 1 := by rw [List.length_drop]; omega
  have hall : (r + 1 = m + 1) = (k + (r + 1) = cycles.length) := by rw [hm, Nat.add_right_inj]
  rw [← hlen] at hnum
  have hunbroken := State.pace_begin (s := s.withCalls (calls.map (k + ·))) (g := g) (i := i) (cycles := cycles)
    (k := k + (r + 1)) hf (by rw [hm]; exact hrow)
  rw [State.runCycles_behind_withGate (s := s) (fun P hP c hc => hkeep P hP c (List.mem_of_mem_take hc))
    (fun c hc => hb c (List.mem_of_mem_take hc)) rfl] at hunbroken
  rw [State.pace_stalledAfter hkeep hb (j := r + 1) (g := Prod.snd _) (Nat.succ_ne_zero r) (Prod.ext hnum rfl), hunbroken]
  simp only [hlen, hall, hgate]
  rfl

end

/-- A resolver has one to three gated cycles (30_encoding.md R113). -/
theorem MemOperand.resolverReads_le (m : MemOperand) : m.resolverReads ≤ 3 := by
  cases m <;> simp [MemOperand.resolverReads]

/-- No instruction has more than six gated cycles: BRK, and a read-modify-write in an indirect mode (R313). -/
theorem cycles_le_six (i : Instr) : i.cycles ≤ 6 := by
  have hread : ∀ o : ReadOperand, o.cycles ≤ 6 := by
    intro o
    cases o with
    | imm b => exact Nat.le_of_ble_eq_true rfl
    | mem m => exact Nat.le_succ_of_le (Nat.add_le_add_right (MemOperand.resolverReads_le m) 2)
  have hshift : ∀ o : ShiftOperand, o.cycles ≤ 6 := by
    intro o
    cases o with
    | acc => decide
    | mem m => exact Nat.add_le_add_right (MemOperand.resolverReads_le m) 3
  cases i with
  | ora o | and o | eor o | adc o | sbc o | cmp o | cpx o | cpy o | lda o | ldx o | ldy o => exact hread o
  | asl o | lsr o | rol o | ror o => exact hshift o
  | inc m | dec m => exact hshift (.mem m)
  | sta m | stx m | sty m | bit m => exact hread (.mem m)
  | jmp t =>
    cases t with
    | abs w | ind w => simp [Instr.cycles]
  | _ => simp [Instr.cycles]

/-! ### The statements -/

/-- Settles O38: the count after the gated cycles, of which the instruction has the table's number. -/
theorem gatedCyclesAreTheTables : Obligations.GatedCyclesAreTheTables := by
  refine ⟨fun i s t hf h => ?_, fun i => ?_⟩
  · obtain ⟨cycles, he, hl, -, -⟩ := exec_pace i
    rw [he] at h
    obtain ⟨k, g, f, hg, rfl, hend⟩ := State.pace_next h
    have hpassed : s.passed = 0 := by rw [State.passed, hf]
    have hcount := State.gatedCycles_count i.cycles s
    rw [hpassed, List.drop_zero, hl] at hg hend
    rw [hg, State.counted_none hf] at hcount
    obtain ⟨rfl, rfl⟩ | ⟨hk, -, rfl⟩ := hend
    · refine ⟨fun _ => ?_, fun f' hsome => nomatch hsome⟩
      split at hcount <;> simp_all
    · refine ⟨fun hnone => (nomatch hnone), fun f' hsome => ?_⟩
      obtain rfl := Option.some.inj hsome
      rw [if_neg (by omega), if_neg (by omega)] at hcount
      simp only [hpassed, Nat.zero_add]
      exact ⟨hcount, hk⟩
  · exact cycles_le_six i

/-- Settles O44: an AlwaysOpen gate passes the cycles that were left, whose work reads nothing of the gate, and counts as many as
the gate they passed. -/
theorem theGateNeverChangesTheResult : Obligations.TheGateNeverChangesTheResult := by
  intro i s t h ht
  obtain ⟨cycles, he, -, hk, hb⟩ := exec_pace i
  rw [he] at h ⊢
  exact State.pace_openGate (hk _ _) (hb _ _) h ht

/-- Settles O41: from rest each call passes one cycle, and the gate is at rest again. -/
theorem handshakePassesOneCycleACall : Obligations.HandshakePassesOneCycleACall := fun _ _ h hc =>
  ⟨(State.handshakeAtRest_iff.1 h).2.2.2.2, State.gatedCycles_atRest h hc⟩

/-- Settles O42: the calls pass their cycles and the CPU stands in the next, where no call comes. -/
theorem stallWhenTheDriverStops : Obligations.StallWhenTheDriverStops := by
  intro i s k h hc hk
  obtain ⟨hm, hgo, hdone, hwaiting, -⟩ := State.handshakeAtRest_iff.1 h
  obtain ⟨cycles, he, hl, hkeep, -⟩ := exec_pace i
  have hcfg := State.runCycles_cfg (cs := (cycles s.foundP s.opAddr).take k)
    (fun P hP c hc => hkeep _ _ P hP c (List.mem_of_mem_take hc)) s
  refine ⟨_, (he s).trans (State.pace_stall h (by rw [hl]; exact hk) hc), rfl, rfl, rfl, hgo, hdone, hwaiting, ?_⟩
  rw [he]
  refine State.pace_blocked rfl (by rw [hl]; exact hk) (State.gatedCycle_blocked ?_ hgo rfl)
  exact (congrArg Config.gateMode hcfg).trans hm

/-- Settles O43: the gate meets the stalled CPU as it meets the one whose first cycles have just passed, and the work of the
cycles reads nothing of the gate. -/
theorem stalledCpuResumesWhereItStands : Obligations.StalledCpuResumesWhereItStands := by
  intro i s t k calls h hk hcalls ht
  obtain ⟨cycles, he, hl, hkeep, hb⟩ := exec_pace i
  have hf := (State.handshakeAtRest_iff.1 h).2.2.2.2
  have hlen : k < (cycles s.p s.pc).length := by rw [hl]; exact hk
  have hfresh : ∀ c, exec i (s.withCalls c) = (s.withCalls c).pace i (cycles s.p s.pc) := by
    intro c
    rw [he, State.foundP_of_none (by exact hf), State.opAddr_of_none (by exact hf)]
    rfl
  rw [hfresh, State.pace_stall (s := s.withCalls (some k)) h hlen rfl] at ht
  obtain rfl := Host.Outcome.next.inj ht
  rw [hfresh, he]
  exact State.pace_resume (s := s.withCalls (some k)) h hlen (hkeep _ _) (hb _ _) hcalls

end Sys2Proof.Machine
end

section
/-! The loop (30_encoding.md R90) and the invariant between steps: what a step can be, said once; the invariant's parts; and each of
the step, the reset and the host's operations. -/

namespace Sys2Proof.Machine

/-! ### What a step can be -/

/-- A step in a run is the loop's exit at a boundary, or the current instruction and what the loop does after it. -/
theorem step_cases {s t : State} (h : step s = .next t) : s.running = true ∧
    (s.inFlight = none ∧ s.atLoopExit = true ∧ t = s.exitLoop ∨
      (s.inFlight = none → s.atLoopExit = false) ∧ ∃ u, exec s.currentInstr s = .next u ∧ t = s.afterExec u) := by
  unfold step at h
  split at h
  · exact nomatch h
  next hr =>
  refine ⟨by simpa using hr, ?_⟩
  split at h
  · next hx =>
    rw [Bool.and_eq_true, Option.isNone_iff_eq_none] at hx
    exact .inl ⟨hx.1, hx.2, (Host.Outcome.next.inj h).symm⟩
  · next hx =>
    refine .inr ⟨fun hf => by simpa [hf] using hx, ?_⟩
    split at h
    · next u hu => exact ⟨u, hu, (Host.Outcome.next.inj h).symm⟩
    · exact nomatch h
    · exact nomatch h

/-- The loop's exit is due where the stop flag or the spent budget calls for it (60_exceptions.md R309). -/
theorem State.atLoopExit_iff {s : State} :
    s.atLoopExit = true ↔ s.stopRequested = true ∨ s.cfg.maxInstructions = some s.executed := by
  rw [State.atLoopExit, Bool.or_eq_true, beq_iff_eq]

/-- An instruction that is no illegal byte raises no decode error. -/
theorem decodeErrorRaised_of_not_illegal {i : Instr} {s u : State} (h : exec i s = .next u) (hi : ∀ op, i ≠ .illegal op) :
    decodeErrorRaised s u = false :=
  decodeErrorRaised_of_reports (rs := []) (by rw [List.append_nil]; exact (exec_leaves h).reports hi)

/-- What follows an instruction adds its completion to the reports, or nothing. -/
theorem State.afterExec_reports (s u : State) : ∃ rs, (s.afterExec u).reports = u.reports ++ rs ∧
    ∀ r ∈ rs, ∃ k op n, r = .instructionComplete k op n := by
  cases hf : u.inFlight with
  | none =>
    rw [State.afterExec_of_none hf, State.completeInstruction_eq]
    exact ⟨_, rfl, fun r hr => ⟨_, _, _, List.mem_singleton.1 hr⟩⟩
  | some f =>
    rw [State.afterExec_of_some hf]
    exact ⟨[], (List.append_nil _).symm, fun r hr => absurd hr List.not_mem_nil⟩

/-- Settles O51: the first two clauses are the two tests at the top of the loop; a run ends after an instruction only for a decode
error, which is an illegal byte's. -/
theorem loopExitsAtTheBoundaryOnly : Obligations.LoopExitsAtTheBoundaryOnly := by
  refine fun s => ⟨fun hr => ?_, fun hr hf hx => ?_, fun t hr hgo h => ?_⟩
  · simp [step, hr]
  · simp [step, hr, hf, State.atLoopExit_iff.2 hx, State.exitLoop]
  · obtain ⟨-, ⟨hf, hx, -⟩ | ⟨-, u, hu, rfl⟩⟩ := step_cases h
    · obtain ⟨hstop, hbudget⟩ := hgo.resolve_left fun hne => hne hf
      exact absurd (State.atLoopExit_iff.1 hx) (by simp [hstop, hbudget])
    · have hrun : u.running = true := (exec_leaves hu).running.trans hr
      cases hf : u.inFlight with
      | some f => exact .inl (by rw [State.afterExec_of_some hf, hrun])
      | none =>
        rw [State.afterExec_of_none hf, State.completeInstruction_eq]
        by_cases hi : ∃ op, s.currentInstr = .illegal op
        · cases hp : s.cfg.illegalPolicy with
          | permissive =>
            left
            simp [(exec_leaves hu).cfg, hp, hrun]
          | strict => exact .inr ⟨rfl, hi⟩
        · left
          simp [decodeErrorRaised_of_not_illegal hu (not_exists.1 hi), hrun]

/-- Settles O53: an instruction reports no NotImplemented, one that is no illegal byte reports nothing, and what follows it adds
a completion at most. -/
theorem notImplementedIsNeverRaised : Obligations.NotImplementedIsNeverRaised := by
  intro s t h
  obtain ⟨-, ⟨-, -, rfl⟩ | ⟨-, u, hu, rfl⟩⟩ := step_cases h
  · exact ⟨fun _ _ hm => hm, fun _ => rfl⟩
  · obtain ⟨rs, hrs, hcomplete⟩ := s.afterExec_reports u
    refine ⟨fun op k hm => ?_, fun hi => ?_⟩
    · rw [hrs, List.mem_append] at hm
      refine (exec_leaves hu).notImplemented op k (hm.resolve_right fun hr => ?_)
      obtain ⟨_, _, _, hr⟩ := hcomplete _ hr
      exact nomatch hr
    · have hquiet : rs.any Report.isDecodeError = false := by
        refine List.any_eq_false.2 fun r hr => ?_
        obtain ⟨_, _, _, rfl⟩ := hcomplete r hr
        simp [Report.isDecodeError]
      rw [State.clean, State.clean, hrs, List.any_append, hquiet, (exec_leaves hu).reports hi, Bool.or_false]

/-! ### The invariant's parts -/

theorem State.inv_iff {s : State} : s.inv = true ↔
    s.mem.wf = true ∧ s.placeInv = true ∧ s.done = false ∧ (s.go = true → s.driverWaiting = true) ∧ s.withinBudget = true := by
  simp only [State.inv, Bool.and_eq_true, Bool.not_eq_true', Bool.or_eq_true, and_assoc, ← Bool.not_eq_true, imp_iff_not_or]

theorem State.withinBudget_iff {s : State} : s.withinBudget = true ↔ ∀ m, s.cfg.maxInstructions = some m → s.executed ≤ m := by
  unfold State.withinBudget
  split
  · next h => simp [h]
  · next m h => simp [h]

/-- Between instructions the count is 0 (60_exceptions.md R313). -/
theorem State.placeInv_of_none {s : State} (h : s.inFlight = none) : s.placeInv = true ↔ s.cycleCount = 0 := by
  simp [State.placeInv, h]

/-- Inside an instruction the CPU waits, counted, before a cycle it has, in a run behind a Handshake gate (R321, R331). -/
theorem State.placeInv_of_some {s : State} {f : InFlight} (h : s.inFlight = some f) : s.placeInv = true ↔
    s.running = true ∧ s.cfg.gateMode = .handshake ∧ f.passed < f.instr.cycles ∧ s.cycleCount = f.passed + 1 ∧
      s.cfg.maxInstructions ≠ some s.executed := by
  simp [State.placeInv, h, and_assoc]

/-- In either place the count is that of the passed cycles and the waiting one. -/
theorem State.placeInv_count {s : State} (h : s.placeInv = true) : s.cycleCount = s.passed + s.counted := by
  cases hf : s.inFlight with
  | none => rw [(State.placeInv_of_none hf).1 h, State.counted_none hf, State.passed, hf]
  | some f =>
    obtain ⟨-, -, -, hcount, -⟩ := (State.placeInv_of_some hf).1 h
    rw [hcount, State.counted_some hf, State.passed, hf]

/-- A stopped engine stands between instructions. -/
theorem State.placeInv_of_stopped {s : State} (h : s.placeInv = true) (hr : s.running = false) :
    s.inFlight = none ∧ s.cycleCount = 0 := by
  cases hf : s.inFlight with
  | none => exact ⟨rfl, (State.placeInv_of_none hf).1 h⟩
  | some f =>
    obtain ⟨hrun, -⟩ := (State.placeInv_of_some hf).1 h
    exact nomatch hr.symm.trans hrun

/-! ### What the gate keeps of it -/

/-- `done` is clear, and `go` is set only while the driver is inside `start_cycle` (R324, R325). -/
def State.signalsInv (s : State) : Prop := s.done = false ∧ (s.go = true → s.driverWaiting = true)

/-- A gated cycle keeps the signals' invariant: a `go` it passes on is one whose caller takes `done`. -/
theorem State.signalsInv_gatedCycle {s g : State} (h : s.signalsInv) (hg : s.gatedCycle = some g) : g.signalsInv := by
  cases hm : s.cfg.gateMode with
  | alwaysOpen =>
    rw [State.gatedCycle_of_alwaysOpen hm] at hg
    obtain rfl := Option.some.inj hg
    exact h
  | handshake =>
    rw [State.gatedCycle_of_handshake hm] at hg
    split at hg
    · next hpass =>
      obtain rfl := Option.some.inj hg
      refine ⟨?_, fun hgo => nomatch hgo⟩
      cases hw : s.driverWaiting with
      | true => simp
      | false =>
        have hgo : s.go = false := Bool.eq_false_iff.2 fun hgo => nomatch hw.symm.trans (h.2 hgo)
        simpa [hgo] using hpass
    · exact nomatch hg

/-- So do gated cycles in a row, the one the CPU may be left waiting in among them. -/
theorem State.signalsInv_gatedCycles {s : State} (h : s.signalsInv) (n : Nat) : (s.gatedCycles n).2.signalsInv := by
  induction n generalizing s with
  | zero => exact h
  | succ n ih =>
    rw [State.gatedCycles]
    split
    · next g hg => exact ih (State.signalsInv_gatedCycle h hg)
    · rw [State.enterBegin_eq]
      exact h

/-- The named writes keep a canonical memory. -/
theorem keptByWrites_wf : KeptByWrites fun u => u.mem.wf = true where
  pc _ _ h := h
  sp _ _ h := h
  p _ _ h := h
  a _ _ h := h
  x _ _ h := h
  y _ _ h := h
  mem _ k v h := Memory.wf_write h k.isLt v
  report _ _ h := h

/-- An instruction keeps the signals' invariant. -/
theorem exec_signalsInv {i : Instr} {s u : State} (h : exec i s = .next u) (hs : s.signalsInv) : u.signalsInv := by
  obtain ⟨cycles, he, -⟩ := exec_pace i
  obtain ⟨k, g, f, hg, rfl, -⟩ := State.pace_next ((he s).symm.trans h)
  have hsignals := State.signalsInv_gatedCycles hs ((cycles s.foundP s.opAddr).drop s.passed).length
  rw [hg] at hsignals
  exact hsignals

/-- An instruction that leaves the CPU inside `enter_cycle` leaves it counted, behind a Handshake gate, before a cycle it has. -/
theorem exec_place {i : Instr} {s u : State} {f : InFlight} (h : exec i s = .next u) (hf : u.inFlight = some f)
    (hcount : s.cycleCount = s.passed + s.counted) :
    s.cfg.gateMode = .handshake ∧ f.passed < f.instr.cycles ∧ u.cycleCount = f.passed + 1 := by
  obtain ⟨cycles, he, hl, -⟩ := exec_pace i
  obtain ⟨k, g, f, hg, rfl, ⟨-, rfl⟩ | ⟨hk, -, rfl⟩⟩ := State.pace_next ((he s).symm.trans h)
  · exact nomatch hf
  · obtain rfl := Option.some.inj hf
    have hlt := State.gatedCycles_lt (n := ((cycles s.foundP s.opAddr).drop s.passed).length) (s := s) (by rw [hg]; exact hk.ne)
    have hc := State.gatedCycles_count ((cycles s.foundP s.opAddr).drop s.passed).length s
    rw [hg, if_neg (by omega), if_neg hk.ne] at hc
    rw [List.length_drop, hl] at hk
    refine ⟨hlt, ?_, ?_⟩
    · change s.passed + k < i.cycles
      omega
    · change g.cycleCount = s.passed + k + 1
      rw [hc]
      omega

/-! ### One call of the driver -/

section
variable {s : State} (hm : s.cfg.gateMode = .handshake) (hgo : s.go = false) (hdone : s.done = false)
  (hwaiting : s.driverWaiting = false)
include hm hgo hdone hwaiting

/-- A gated cycle passes on the `go` of a `start_cycle` that waits, and returns the call (R325, R329). -/
theorem State.gatedCycle_go :
    { s with go := true, driverWaiting := true }.gatedCycle =
      some { s with cycleCount := s.cycleCount + 1 - s.counted, inFlight := none } := by
  rw [State.gatedCycle_of_handshake (by exact hm)]
  simp [State.driverStays, State.counted, hgo, hdone, hwaiting]

/-- One call passes one of the cycles an instruction has left, and the CPU waits, counted, in the next (R333, R334). -/
theorem State.gatedCycles_go (hc : s.driverCalls = some 0) {f : InFlight} (hf : s.inFlight = some f) {n : Nat} (hn : n ≠ 0) :
    { s with go := true, driverWaiting := true }.gatedCycles n =
      (1, { s with cycleCount := s.cycleCount + (if n = 1 then 0 else 1), inFlight := none }) := by
  obtain ⟨m, rfl⟩ := Nat.exists_eq_succ_of_ne_zero hn
  rw [State.gatedCycles, State.gatedCycle_go hm hgo hdone hwaiting, State.counted_some hf]
  cases m with
  | zero => rfl
  | succ m =>
    simp only
    rw [State.gatedCycles_blocked rfl (State.gatedCycle_blocked (by exact hm) (by exact hgo) (by exact hc))]
    simp

/-- One call does exactly the cycle an instruction waits in. -/
theorem exec_go (hc : s.driverCalls = some 0) {f : InFlight} (hf : s.inFlight = some f) (hpassed : f.passed < f.instr.cycles) :
    ∃ u, exec f.instr { s with go := true, driverWaiting := true } = .next u ∧
      u.go = false ∧ u.done = false ∧ u.driverWaiting = false ∧
      u.inFlight = (if f.passed + 1 = f.instr.cycles then none else some { f with passed := f.passed + 1 }) ∧
      u.cycleCount = s.cycleCount + (if f.passed + 1 = f.instr.cycles then 0 else 1) := by
  obtain ⟨cycles, he, hl, -⟩ := exec_pace f.instr
  have hplace : s.passed = f.passed ∧ s.opAddr = f.opAddr ∧ s.op = f.op ∧ s.foundP = f.p := by
    simp only [State.passed, State.opAddr, State.op, State.foundP, hf, and_self]
  obtain ⟨hp, haddr, hop, hfound⟩ := hplace
  have hleft : ((cycles s.foundP s.opAddr).drop s.passed).length = f.instr.cycles - f.passed := by
    rw [List.length_drop, hl, hp]
  have hlast : 1 = f.instr.cycles - f.passed ↔ f.passed + 1 = f.instr.cycles := by omega
  have hgate := State.gatedCycles_go hm hgo hdone hwaiting hc hf (n := f.instr.cycles - f.passed) (by omega)
  rw [← hleft] at hgate
  have hpace := State.pace_progress (s := { s with go := true, driverWaiting := true }) (i := f.instr) hgate (.inr Nat.one_ne_zero)
  refine ⟨_, (he _).trans hpace, hgo, hdone, hwaiting, ?_, ?_⟩
  · change (if 1 = ((cycles s.foundP s.opAddr).drop s.passed).length then none
      else some (InFlight.mk f.instr s.opAddr s.op s.foundP (s.passed + 1))) = _
    rw [hleft, if_congr hlast rfl rfl, haddr, hop, hfound, hp]
  · change s.cycleCount + (if ((cycles s.foundP s.opAddr).drop s.passed).length = 1 then 0 else 1) = _
    rw [hleft, if_congr (eq_comm.trans hlast) rfl rfl]

end

/-! ### The statements -/

/-- Settles O54: the memory by the writes, the signals and the count by the gate, and the budget by the test at the top of the
loop, which the instruction passed when it was taken up. -/
theorem stepKeepsTheInvariant : Obligations.StepKeepsTheInvariant := by
  intro s t hinv hstep
  obtain ⟨hmem, hplace, hdone, hgo, hbudget⟩ := State.inv_iff.1 hinv
  obtain ⟨hr, ⟨hf, -, rfl⟩ | ⟨hx, u, hu, rfl⟩⟩ := step_cases hstep
  · exact State.inv_iff.2 ⟨hmem, (State.placeInv_of_none (by exact hf)).2 ((State.placeInv_of_none hf).1 hplace), hdone, hgo, hbudget⟩
  · have hleft : s.cfg.maxInstructions ≠ some s.executed := by
      cases hf : s.inFlight with
      | none => exact fun hm => nomatch (hx hf).symm.trans (State.atLoopExit_iff.2 (.inr hm))
      | some f => exact ((State.placeInv_of_some hf).1 hplace).2.2.2.2
    have hl := exec_leaves hu
    have humem : u.mem.wf = true := exec_keep keptByWrites_wf (fun _ _ _ h => h) hu hmem
    obtain ⟨hudone, hugo⟩ := exec_signalsInv hu ⟨hdone, hgo⟩
    cases hf : u.inFlight with
    | none =>
      rw [State.afterExec_of_none hf, State.completeInstruction_eq]
      refine State.inv_iff.2 ⟨humem, (State.placeInv_of_none (by exact hf)).2 rfl, hudone, hugo,
        State.withinBudget_iff.2 fun m hm => ?_⟩
      rw [hl.cfg] at hm
      have hle := State.withinBudget_iff.1 hbudget m hm
      have hne : s.executed ≠ m := fun he => hleft (he ▸ hm)
      change u.executed + 1 ≤ m
      rw [hl.executed]
      omega
    | some f =>
      obtain ⟨hmode, hpassed, hcount⟩ := exec_place hu hf (State.placeInv_count hplace)
      rw [State.afterExec_of_some hf]
      refine State.inv_iff.2 ⟨humem, (State.placeInv_of_some hf).2 ⟨?_, ?_, hpassed, hcount, ?_⟩, hudone, hugo, ?_⟩
      · rw [hl.running, hr]
      · rw [hl.cfg, hmode]
      · rw [hl.cfg, hl.executed]
        exact hleft
      · rw [State.withinBudget, hl.cfg, hl.executed]
        exact hbudget

/-- Settles O55: a reset engine is stopped between instructions with clear signals and nothing executed. -/
theorem resetHasTheInvariant : Obligations.ResetHasTheInvariant :=
  ⟨rfl, fun _ _ hmem => State.inv_iff.2
    ⟨hmem, rfl, rfl, fun hgo => (nomatch hgo), State.withinBudget_iff.2 fun m _ => Nat.zero_le m⟩⟩

/-- Settles O56: a stopped engine stands between instructions, so that a reset and a start leave it there; a call of the driver
sets `go` with the driver inside it; no other operation touches more than the memory, a register, the stop flag or the calls. -/
theorem hostKeepsTheInvariant : Obligations.HostKeepsTheInvariant := by
  intro op s t hinv h
  obtain ⟨hmem, hplace, hdone, hgo, hbudget⟩ := State.inv_iff.1 hinv
  unfold State.hostDo at h
  split at h
  · exact nomatch h
  next hrun =>
  split at h
  · exact nomatch h
  obtain rfl := Host.Outcome.next.inj h
  have hstopped : op.whileRunning = false → s.inFlight = none ∧ s.cycleCount = 0 := fun hw =>
    State.placeInv_of_stopped hplace (by simpa [hw] using hrun)
  cases op with
  | load a v => exact State.inv_iff.2 ⟨Memory.wf_write hmem a.isLt v, hplace, hdone, hgo, hbudget⟩
  | writePC | writePCH | writePCL | writeS | writeP | writeA | writeX | writeY | stop | join | schedule => exact hinv
  | reset =>
    exact State.inv_iff.2 ⟨hmem, (State.placeInv_of_none (by exact (hstopped rfl).1)).2 rfl, rfl, fun hg => (nomatch hg),
      State.withinBudget_iff.2 fun m _ => Nat.zero_le m⟩
  | start =>
    exact State.inv_iff.2 ⟨hmem, (State.placeInv_of_none (by exact (hstopped rfl).1)).2 (hstopped rfl).2, hdone, hgo,
      State.withinBudget_iff.2 fun m _ => Nat.zero_le m⟩
  | startCycle =>
    cases hm : s.cfg.gateMode with
    | alwaysOpen =>
      rw [HostOp.effect, State.startCycle_alwaysOpen hm]
      exact hinv
    | handshake =>
      rw [HostOp.effect, State.startCycle, hm]
      exact State.inv_iff.2 ⟨hmem, hplace, hdone, fun _ => rfl, hbudget⟩

/-- Settles O60: the call leaves `go` set, the cycle that was waited in passes on it, and the next one blocks, or there is none. -/
theorem startCycleStepsOneGatedCycle : Obligations.StartCycleStepsOneGatedCycle := by
  intro s hm hgo hdone hwaiting hc
  have hcall : s.hostDo .startCycle = .next { s with go := true, driverWaiting := true } := by
    simp [State.hostDo, HostOp.whileRunning, HostOp.effect, State.startCycle, hm, hwaiting]
  refine ⟨_, hcall, rfl, rfl, fun hf => ?_, fun f hf hr hpassed => ?_⟩
  · rw [State.gatedCycle_go hm hgo hdone hwaiting, State.counted_none hf, ← hf]
    rfl
  · obtain ⟨u, hu, hugo, hudone, huwaiting, hplace, hcount⟩ := exec_go hm hgo hdone hwaiting hc hf hpassed
    have hl := exec_leaves hu
    have hstep := stepRunsTheDecodedInstruction { s with go := true, driverWaiting := true } f.instr hr (.inr ⟨f, hf, rfl⟩)
    rw [hu] at hstep
    refine ⟨_, hstep, ?_⟩
    by_cases hlast : f.passed + 1 = f.instr.cycles
    · rw [if_pos hlast] at hplace hcount
      rw [State.afterExec_of_none hplace, State.completeInstruction_eq, State.opAddr_of_some (by exact hf),
        State.op_of_some (by exact hf), hcount]
      refine ⟨hugo, hudone, by rw [HostOp.returned, huwaiting]; rfl, fun hlt => absurd hlast hlt.ne, fun _ => ?_⟩
      exact ⟨hplace, rfl, congrArg (· + 1) hl.executed, List.mem_append_right _ (List.mem_singleton.2 rfl)⟩
    · rw [if_neg hlast] at hplace hcount
      rw [State.afterExec_of_some hplace]
      have hlegal : ∀ op, f.instr ≠ .illegal op := by
        intro op hi
        rw [hi] at hpassed hlast
        simp only [Instr.cycles] at hpassed hlast
        omega
      refine ⟨hugo, hudone, by rw [HostOp.returned, huwaiting]; rfl, fun _ => ?_, fun he => absurd he hlast⟩
      exact ⟨hplace, hcount, hl.reports hlegal, hl.executed⟩

end Sys2Proof.Machine
end

section
/-! The flags no instruction reads but PHP and BRK, which push P (10_state.md R34 to R37): a change of one of them is carried through
every gated cycle to the end, or the cycle writes the flag itself. -/

namespace Sys2Proof.Machine

/-! ### Status bytes that differ in one flag -/

/-- The flags of which no instruction but PHP and BRK reads the value. -/
def Flag.Unread (f : Flag) : Prop := f ∈ [Flag.u, .b, .d, .i]

theorem Flag.Unread.ne {f g : Flag} (hf : f.Unread) (hg : g ∈ [Flag.n, .v, .z, .c]) : g ≠ f := by
  rintro rfl
  simp only [Flag.Unread, List.mem_cons, List.not_mem_nil, or_false] at hf hg
  obtain rfl | rfl | rfl | rfl := hf <;> simp at hg

theorem putFlag_putFlag_same (p : Byte) (f : Flag) (v w : Bool) : putFlag (putFlag p f v) f w = putFlag p f w := by
  refine flag_ext fun g => ?_
  rw [getFlag_putFlag, getFlag_putFlag, getFlag_putFlag]
  split <;> rfl

theorem putFlag_getFlag (p : Byte) (f : Flag) : putFlag p f (getFlag p f) = p := by
  refine flag_ext fun g => ?_
  rw [getFlag_putFlag]
  split
  · next h => rw [h]
  · rfl

/-- Flags written over a change of another flag leave that change. -/
theorem flagAfter_putFlag {p : Byte} {f : Flag} {val : Bool} {ws : List (Flag × Bool)} (hws : ∀ w ∈ ws, w.1 ≠ f) (g : Flag) :
    flagAfter (putFlag p f val) ws g = if g = f then val else flagAfter p ws g := by
  induction ws with
  | nil => exact getFlag_putFlag p f g val
  | cons w ws ih =>
    rw [flagAfter, flagAfter, ih fun v hv => hws v (List.mem_cons_of_mem _ hv)]
    split
    · next hg => rw [if_neg (hg ▸ hws w List.mem_cons_self)]
    · rfl

/-- A computation that writes some of N, V, Z and C commutes with a change of an unread flag. -/
theorem putFlag_comm {f : Flag} (hf : f.Unread) {h : Byte → Byte} {ws : List (Flag × Bool)} (hh : ∀ p, FlagsBecome p (h p) ws)
    (hws : ∀ w ∈ ws, w.1 ∈ [Flag.n, .v, .z, .c]) (p : Byte) (val : Bool) : h (putFlag p f val) = putFlag (h p) f val := by
  refine flag_ext fun g => ?_
  rw [hh, getFlag_putFlag, hh, flagAfter_putFlag fun w hw => hf.ne (hws w hw)]

/-- Of two flag writes, the later may be done first; of two writes of one flag, the later stays. -/
theorem putFlag_putFlag_swap (p : Byte) (f g : Flag) (v w : Bool) :
    ∃ v', putFlag (putFlag p f v) g w = putFlag (putFlag p g w) f v' := by
  by_cases h : g = f
  · subst h
    exact ⟨w, by rw [putFlag_putFlag_same, putFlag_putFlag_same]⟩
  · refine ⟨v, flag_ext fun k => ?_⟩
    simp only [getFlag_putFlag]
    split
    · next hk => rw [if_neg (hk ▸ h)]
    · rfl

theorem getFlag_putFlag_unread {f g : Flag} (hf : f.Unread) (hg : g ∈ [Flag.n, .v, .z, .c]) (p : Byte) (val : Bool) :
    getFlag (putFlag p f val) g = getFlag p g := by
  rw [getFlag_putFlag, if_neg (hf.ne hg)]

section
variable {f : Flag} (hf : f.Unread) (p : Byte) (val : Bool)
include hf

theorem setZN_putFlag (v : Byte) : setZN (putFlag p f val) v = putFlag (setZN p v) f val :=
  putFlag_comm hf (h := fun p => setZN p v) (fun p => flagsBecome_setZN p v) (by simp) p val

theorem arithFlags_putFlag (old r : Byte) (carry : Bool) :
    arithFlags (putFlag p f val) old r carry = putFlag (arithFlags p old r carry) f val :=
  putFlag_comm hf (h := fun p => arithFlags p old r carry) (fun p => flagsBecome_arithFlags p old r carry) (by simp) p val

theorem compareFlags_putFlag (reg m : Byte) :
    compareFlags (putFlag p f val) reg m = putFlag (compareFlags p reg m) f val :=
  putFlag_comm hf (h := fun p => compareFlags p reg m) (fun p => flagsBecome_compareFlags p reg m) (by simp) p val

theorem bitFlags_putFlag (a m : Byte) : bitFlags (putFlag p f val) a m = putFlag (bitFlags p a m) f val :=
  putFlag_comm hf (h := fun p => bitFlags p a m) (fun p => flagsBecome_bitFlags p a m) (by simp) p val

end

/-! ### The cycles -/

/-- The cycle carries a change of the flag along, or writes the flag itself. -/
def CarriesFlag (f : Flag) (c : Cycle) : Prop := ∀ (s : State) (val : Bool), ∃ val', c (s.setFlag f val) = (c s).setFlag f val'

/-- Each of the cycles carries the flag. -/
def CyclesCarry (f : Flag) (cs : List Cycle) : Prop := ∀ c ∈ cs, CarriesFlag f c

section
variable {f : Flag}

theorem cyclesCarry_nil : CyclesCarry f [] := fun _ h => absurd h List.not_mem_nil

theorem cyclesCarry_cons {c : Cycle} {cs : List Cycle} (h : CarriesFlag f c) (hs : CyclesCarry f cs) : CyclesCarry f (c :: cs) :=
  List.forall_mem_cons.2 ⟨h, hs⟩

theorem cyclesCarry_append {cs ds : List Cycle} (h : CyclesCarry f cs) (hs : CyclesCarry f ds) : CyclesCarry f (cs ++ ds) :=
  fun c hc => (List.mem_append.1 hc).elim (h c) (hs c)

/-- Cycles that carry the flag carry it to their end. -/
theorem State.runCycles_carry {cs : List Cycle} (hc : CyclesCarry f cs) (s : State) (val : Bool) :
    ∃ val', (s.setFlag f val).runCycles cs = (s.runCycles cs).setFlag f val' := by
  induction cs generalizing s val with
  | nil => exact ⟨val, rfl⟩
  | cons c cs ih =>
    obtain ⟨v, hv⟩ := hc c List.mem_cons_self s val
    rw [State.runCycles, State.runCycles, hv]
    exact ih (fun d hd => hc d (List.mem_cons_of_mem _ hd)) (c s) v

theorem State.ea_setFlag (s : State) (val : Bool) (m : MemOperand) : (s.setFlag f val).ea m = s.ea m := by cases m <;> rfl

theorem State.operand_setFlag (s : State) (val : Bool) (o : ReadOperand) : (s.setFlag f val).operand o = s.operand o := by
  cases o with
  | imm b => rfl
  | mem m => rw [State.operand, State.operand, State.ea_setFlag]; rfl

theorem addressCycles_carry (m : MemOperand) : CyclesCarry f (addressCycles m) := by
  have fetch : CarriesFlag f State.fetchByte := fun _ _ => ⟨_, rfl⟩
  have read : CarriesFlag f State.readOnly := fun _ _ => ⟨_, rfl⟩
  cases m with
  | zp | zpx | zpy => exact cyclesCarry_cons fetch (cyclesCarry_cons fetch cyclesCarry_nil)
  | abs | absx | absy => exact cyclesCarry_cons fetch (cyclesCarry_cons fetch (cyclesCarry_cons fetch cyclesCarry_nil))
  | izx | izy =>
    exact cyclesCarry_cons fetch (cyclesCarry_cons fetch (cyclesCarry_cons read (cyclesCarry_cons read cyclesCarry_nil)))

theorem readCycles_carry (o : ReadOperand) {work : Byte → Cycle} (hw : ∀ v, CarriesFlag f (work v)) :
    CyclesCarry f (readCycles o work) := by
  refine cyclesCarry_append ?_ (cyclesCarry_cons (fun s val => ?_) cyclesCarry_nil)
  · cases o with
    | imm b => exact cyclesCarry_cons (fun _ _ => ⟨_, rfl⟩) cyclesCarry_nil
    | mem m => exact addressCycles_carry m
  · rw [State.operand_setFlag]
    exact hw (s.operand o) s val

theorem storeCycles_carry (m : MemOperand) {value : State → Byte} (hv : ∀ s val, value (s.setFlag f val) = value s) :
    CyclesCarry f (storeCycles m value) := by
  refine cyclesCarry_append (addressCycles_carry m) (cyclesCarry_cons (fun s val => ⟨val, ?_⟩) cyclesCarry_nil)
  rw [State.ea_setFlag, hv]
  rfl

theorem branchCycles_carry (b : Byte) {cond : State → Bool} (hc : ∀ s val, cond (s.setFlag f val) = cond s) :
    CyclesCarry f (branchCycles b cond) := by
  refine cyclesCarry_cons (fun _ _ => ⟨_, rfl⟩) (cyclesCarry_cons (fun s val => ⟨val, ?_⟩) cyclesCarry_nil)
  rw [hc]
  split <;> rfl

end

/-- A computation of result and P that an unread flag passes through: its result is the same, its P differs in that flag. -/
structure PassesFlag (f : Flag) (h : Byte → Byte → Byte × Byte) : Prop where
  result : ∀ v p val, (h v (putFlag p f val)).1 = (h v p).1
  flags : ∀ v p val, (h v (putFlag p f val)).2 = putFlag (h v p).2 f val

section
variable {f : Flag} {h : Byte → Byte → Byte × Byte} (hh : PassesFlag f h)
include hh

theorem modifyCycles_carry (m : MemOperand) (p : Byte) : CyclesCarry f (modifyCycles m p h) := by
  refine cyclesCarry_append (addressCycles_carry m)
    (cyclesCarry_cons (fun s val => ⟨val, ?_⟩) (cyclesCarry_cons (fun s val => ⟨val, ?_⟩) cyclesCarry_nil))
  · rw [State.ea_setFlag]
    exact congrArg s.setP (hh.flags _ _ _)
  · rw [State.ea_setFlag]
    rfl

theorem shiftCycles_carry (o : ShiftOperand) (p : Byte) : CyclesCarry f (shiftCycles o p h) := by
  cases o with
  | acc =>
    refine cyclesCarry_cons (fun s val => ⟨val, ?_⟩) cyclesCarry_nil
    exact congrArg₂ (fun r q => (s.fetchByte.setA r).setP q) (hh.result _ _ _) (hh.flags _ _ _)
  | mem m => exact modifyCycles_carry hh m p

theorem modifyCycles_putFlag (m : MemOperand) (p : Byte) (val : Bool) :
    modifyCycles m (putFlag p f val) h = modifyCycles m p h := by
  simp only [modifyCycles, hh.result]

theorem shiftCycles_putFlag (o : ShiftOperand) (p : Byte) (val : Bool) : shiftCycles o (putFlag p f val) h = shiftCycles o p h := by
  cases o with
  | acc => rfl
  | mem m => exact modifyCycles_putFlag hh m p val

end

section
variable {f : Flag} (hf : f.Unread)
include hf

theorem passesFlag_setZN (r : Byte → Byte) : PassesFlag f fun v p => (r v, setZN p (r v)) where
  result _ _ _ := rfl
  flags _ p val := setZN_putFlag hf p val _

theorem passesFlag_shiftLeft (cin : Byte → Bool) (hcin : ∀ p val, cin (putFlag p f val) = cin p) :
    PassesFlag f fun v p => shiftLeft (cin p) v p where
  result v p val := by rw [hcin]; rfl
  flags v p val := by
    rw [hcin]
    exact putFlag_comm hf (fun q => flagsBecome_leftShiftFlags q _ _) (by simp) p val

theorem passesFlag_shiftRight (cin : Byte → Bool) (hcin : ∀ p val, cin (putFlag p f val) = cin p) :
    PassesFlag f fun v p => shiftRight (cin p) v p where
  result v p val := by rw [hcin]; rfl
  flags v p val := by
    rw [hcin]
    exact putFlag_comm hf (fun q => flagsBecome_rightShiftFlags q _ _) (by simp) p val

/-- Z and N are written over a change of an unread flag, whatever else the cycle wrote before. -/
theorem carriesFlag_updateZN {c : Cycle} {v : State → Byte} (hc : ∀ s val, c (s.setFlag f val) = (c s).setFlag f val)
    (hv : ∀ s val, v (s.setFlag f val) = v s) : CarriesFlag f fun s => (c s).updateZN (v s) := by
  intro s val
  refine ⟨val, ?_⟩
  simp only [hc, hv]
  exact congrArg (c s).setP (setZN_putFlag hf _ _ _)

/-- The gated cycles of an instruction that does not push P carry an unread flag, and do not depend on the one it found. -/
theorem exec_carries {i : Instr} (hphp : i ≠ .php) (hbrk : i ≠ .brk) : ∃ cycles : Byte → Addr → List Cycle,
    (∀ s, exec i s = s.pace i (cycles s.foundP s.opAddr)) ∧ (∀ p r val, cycles (putFlag p f val) r = cycles p r) ∧
    ∀ p r, CyclesCarry f (cycles p r) := by
  have one : ∀ {c : Cycle}, CarriesFlag f c → CyclesCarry f [c] := fun h => cyclesCarry_cons h cyclesCarry_nil
  have two : ∀ {c d : Cycle}, CarriesFlag f c → CarriesFlag f d → CyclesCarry f [c, d] := fun h k => cyclesCarry_cons h (one k)
  have three : ∀ {c d e : Cycle}, CarriesFlag f c → CarriesFlag f d → CarriesFlag f e → CyclesCarry f [c, d, e] :=
    fun h k l => cyclesCarry_cons h (two k l)
  have noCarry : ∀ (p : Byte) (val : Bool), false = false := fun _ _ => rfl
  have oldCarry : ∀ p val, getFlag (putFlag p f val) .c = getFlag p .c := getFlag_putFlag_unread hf (by simp)
  cases i with
  | php => exact absurd rfl hphp
  | brk => exact absurd rfl hbrk
  | ora o | and o | eor o | lda o | ldx o | ldy o =>
    exact ⟨fun _ _ => readCycles o _, fun _ => rfl, fun _ _ _ => rfl,
      fun _ _ => readCycles_carry o fun _ => carriesFlag_updateZN hf (fun _ _ => rfl) fun _ _ => rfl⟩
  | adc o =>
    refine ⟨fun _ _ => readCycles o _, fun _ => rfl, fun _ _ _ => rfl, fun _ _ => readCycles_carry o fun m s val => ⟨val, ?_⟩⟩
    simp only [State.flag, State.setFlag, State.setP_p, oldCarry]
    exact congrArg (s.setA _).setP (arithFlags_putFlag hf _ _ _ _ _)
  | sbc o =>
    exact ⟨fun _ _ => readCycles o _, fun _ => rfl, fun _ _ _ => rfl,
      fun _ _ => readCycles_carry o fun _ s val => ⟨val, congrArg (s.setA _).setP (arithFlags_putFlag hf _ _ _ _ _)⟩⟩
  | cmp o | cpx o | cpy o =>
    exact ⟨fun _ _ => readCycles o _, fun _ => rfl, fun _ _ _ => rfl,
      fun _ _ => readCycles_carry o fun _ s val => ⟨val, congrArg s.setP (compareFlags_putFlag hf _ _ _ _)⟩⟩
  | bit m =>
    exact ⟨fun _ _ => readCycles (.mem m) _, fun _ => rfl, fun _ _ _ => rfl,
      fun _ _ => readCycles_carry _ fun _ s val => ⟨val, congrArg s.setP (bitFlags_putFlag hf _ _ _ _)⟩⟩
  | sta m | stx m | sty m =>
    exact ⟨fun _ _ => storeCycles m _, fun _ => rfl, fun _ _ _ => rfl, fun _ _ => storeCycles_carry m fun _ _ => rfl⟩
  | inc m | dec m =>
    exact ⟨fun p _ => modifyCycles m p _, fun _ => rfl, fun p _ => modifyCycles_putFlag (passesFlag_setZN hf _) m p,
      fun p _ => modifyCycles_carry (passesFlag_setZN hf _) m p⟩
  | asl o =>
    exact ⟨fun p _ => shiftCycles o p _, fun _ => rfl, fun p _ => shiftCycles_putFlag (passesFlag_shiftLeft hf _ noCarry) o p,
      fun p _ => shiftCycles_carry (passesFlag_shiftLeft hf _ noCarry) o p⟩
  | lsr o =>
    exact ⟨fun p _ => shiftCycles o p _, fun _ => rfl, fun p _ => shiftCycles_putFlag (passesFlag_shiftRight hf _ noCarry) o p,
      fun p _ => shiftCycles_carry (passesFlag_shiftRight hf _ noCarry) o p⟩
  | rol o =>
    exact ⟨fun p _ => shiftCycles o p _, fun _ => rfl, fun p _ => shiftCycles_putFlag (passesFlag_shiftLeft hf _ oldCarry) o p,
      fun p _ => shiftCycles_carry (passesFlag_shiftLeft hf _ oldCarry) o p⟩
  | ror o =>
    exact ⟨fun p _ => shiftCycles o p _, fun _ => rfl, fun p _ => shiftCycles_putFlag (passesFlag_shiftRight hf _ oldCarry) o p,
      fun p _ => shiftCycles_carry (passesFlag_shiftRight hf _ oldCarry) o p⟩
  | inx | dex | iny | dey | tax | txa | tay | tya | tsx =>
    exact ⟨fun _ _ => impliedCycles _, fun _ => rfl, fun _ _ _ => rfl,
      fun _ _ => one (carriesFlag_updateZN hf (fun _ _ => rfl) fun _ _ => rfl)⟩
  | txs =>
    exact ⟨fun _ _ => impliedCycles _, fun _ => rfl, fun _ _ _ => rfl, fun _ _ => one fun _ _ => ⟨_, rfl⟩⟩
  | clc | sec | cld | sed | cli | sei | clv =>
    refine ⟨fun _ _ => impliedCycles _, fun _ => rfl, fun _ _ _ => rfl, fun _ _ => one fun s val => ?_⟩
    obtain ⟨v, hv⟩ := putFlag_putFlag_swap s.p f _ val _
    exact ⟨v, congrArg s.fetchByte.setP hv⟩
  | pha =>
    exact ⟨fun _ _ => pushCycles _, fun _ => rfl, fun _ _ _ => rfl, fun _ _ => two (fun _ _ => ⟨_, rfl⟩) fun _ _ => ⟨_, rfl⟩⟩
  | pla =>
    exact ⟨fun _ _ => pullCycles _, fun _ => rfl, fun _ _ _ => rfl,
      fun _ _ => two (fun _ _ => ⟨_, rfl⟩) (carriesFlag_updateZN hf (fun _ _ => rfl) fun _ _ => rfl)⟩
  | plp =>
    exact ⟨fun _ _ => pullCycles _, fun _ => rfl, fun _ _ _ => rfl,
      fun _ _ => two (fun _ _ => ⟨_, rfl⟩) fun s _ => ⟨_, congrArg s.setP (putFlag_getFlag s.stackTop f).symm⟩⟩
  | bpl b | bvc b | bcc b | bne b =>
    exact ⟨fun _ _ => branchCycles b _, fun _ => rfl, fun _ _ _ => rfl,
      fun _ _ => branchCycles_carry b fun _ _ => congrArg Bool.not (getFlag_putFlag_unread hf (by simp) _ _)⟩
  | bmi b | bvs b | bcs b | beq b =>
    exact ⟨fun _ _ => branchCycles b _, fun _ => rfl, fun _ _ _ => rfl,
      fun _ _ => branchCycles_carry b fun _ _ => getFlag_putFlag_unread hf (by simp) _ _⟩
  | rti =>
    exact ⟨fun _ _ => returnFromTrap, fun _ => rfl, fun _ _ _ => rfl,
      fun _ _ => cyclesCarry_cons (fun _ _ => ⟨_, rfl⟩) (three
        (fun s _ => ⟨_, congrArg (fun p => (s.setP p).raiseSP) (putFlag_getFlag s.stackTop f).symm⟩)
        (fun _ _ => ⟨_, rfl⟩) fun _ _ => ⟨_, rfl⟩)⟩
  | jsr w =>
    exact ⟨fun _ _ => _, fun _ => rfl, fun _ _ _ => rfl,
      fun _ _ => cyclesCarry_append (cs := [_, _]) (two (fun _ _ => ⟨_, rfl⟩) fun _ _ => ⟨_, rfl⟩)
        (three (fun _ _ => ⟨_, rfl⟩) (fun _ _ => ⟨_, rfl⟩) fun _ _ => ⟨_, rfl⟩)⟩
  | rts =>
    exact ⟨fun _ _ => _, fun _ => rfl, fun _ _ _ => rfl,
      fun _ _ => three (fun _ _ => ⟨_, rfl⟩) (fun _ _ => ⟨_, rfl⟩) fun _ _ => ⟨_, rfl⟩⟩
  | jmp t =>
    cases t with
    | abs w =>
      exact ⟨fun _ _ => _, fun _ => rfl, fun _ _ _ => rfl,
        fun _ _ => three (fun _ _ => ⟨_, rfl⟩) (fun _ _ => ⟨_, rfl⟩) fun _ _ => ⟨_, rfl⟩⟩
    | ind w =>
      exact ⟨fun _ _ => _, fun _ => rfl, fun _ _ _ => rfl,
        fun _ _ => cyclesCarry_append (cs := [_, _]) (two (fun _ _ => ⟨_, rfl⟩) fun _ _ => ⟨_, rfl⟩)
          (three (fun _ _ => ⟨_, rfl⟩) (fun _ _ => ⟨_, rfl⟩) fun _ _ => ⟨_, rfl⟩)⟩
  | nop =>
    exact ⟨fun _ _ => [State.fetchByte], fun _ => rfl, fun _ _ _ => rfl, fun _ _ => one fun _ _ => ⟨_, rfl⟩⟩
  | illegal op =>
    exact ⟨fun _ _ => [_], fun _ => rfl, fun _ _ _ => rfl, fun _ _ => one fun _ _ => ⟨_, rfl⟩⟩

end

/-! ### The statement -/

/-- The gate reads nothing of P. -/
theorem State.setFlag_sameGate (s : State) (f : Flag) (val : Bool) : s.SameGate (s.setFlag f val) where
  count := rfl
  go := rfl
  done := rfl
  driverCalls := rfl
  driverWaiting := rfl
  mode := rfl

/-- Settles O39: the gate passes the cycles of both runs, which carry the flag to the end. -/
theorem unreadFlagsInfluenceNothing : Obligations.UnreadFlagsInfluenceNothing := by
  intro i s t f val hf hphp hbrk h ht
  obtain ⟨cycles, he, hfound, hcarry⟩ := exec_carries (f := f) hf hphp hbrk
  rw [he] at h
  obtain ⟨g, hg, rfl⟩ := State.pace_next_complete h ht
  have hsame : cycles (s.setFlag f val).foundP s.opAddr = cycles s.foundP s.opAddr := by
    cases hs : s.inFlight with
    | none =>
      rw [State.foundP_of_none (by exact hs), State.foundP_of_none hs]
      exact hfound s.p _ val
    | some f' => rw [State.foundP, State.foundP, show (s.setFlag f val).inFlight = s.inFlight from rfl, hs]
  have hgates := (s.setFlag_sameGate f val).gatedCycles (n := ((cycles s.foundP s.opAddr).drop s.passed).length) fun _ => rfl
  rw [hg] at hgates
  obtain ⟨v, hv⟩ := State.runCycles_carry (cs := (cycles s.foundP s.opAddr).drop s.passed)
    (fun c hc => hcarry _ _ c (List.mem_of_mem_drop hc)) s val
  have hrun := State.pace_all (s := s.setFlag f val) (g := Prod.snd _) (i := i) (cycles := cycles s.foundP s.opAddr)
    (Prod.ext hgates.1.symm rfl)
  refine ⟨_, (he _).trans ((congrArg ((s.setFlag f val).pace i) hsame).trans hrun), ?_⟩
  rw [show (s.setFlag f val).passed = s.passed from rfl, hv, ← hgates.2]
  simp only [State.setFlag, State.setP, State.withGate, putFlag_putFlag_same]

end Sys2Proof.Machine
end

section
/-! The bytes an instruction stores (42_incdec_shift.md to 44_branch_control.md): a list of gated cycles stores within a list of
addresses that is computed at its beginning, and so does every part of it the gate lets through. -/

namespace Sys2Proof.Machine

/-! ### Cycles that store within a list of addresses -/

/-- The cycles store within the addresses `A` gives at their beginning: the first does, and what the rest needs is among them,
whether the first is done or not. -/
inductive StoresWithin : (State → List Addr) → List Cycle → Prop where
  | nil (A : State → List Addr) : StoresWithin A []
  | cons {A B : State → List Addr} {c : Cycle} {cs : List Cycle}
      (first : ∀ s k, (∀ a ∈ A s, k ≠ a.toNat) → (c s).mem.read k = s.mem.read k)
      (after : ∀ s, B (c s) ⊆ A s) (without : ∀ s, B s ⊆ A s) (rest : StoresWithin B cs) : StoresWithin A (c :: cs)

section
variable {A B : State → List Addr} {cs : List Cycle}

theorem StoresWithin.mono (h : StoresWithin A cs) (hAB : ∀ s, A s ⊆ B s) : StoresWithin B cs := by
  cases h with
  | nil => exact .nil B
  | cons first after without rest =>
    exact .cons (fun s k hk => first s k fun a ha => hk a (hAB s ha)) (fun s => List.Subset.trans (after s) (hAB s))
      (fun s => List.Subset.trans (without s) (hAB s)) rest

theorem StoresWithin.take (h : StoresWithin A cs) (n : Nat) : StoresWithin A (cs.take n) := by
  induction h generalizing n with
  | nil A =>
    rw [List.take_nil]
    exact .nil A
  | cons first after without _ ih =>
    cases n with
    | zero => exact .nil _
    | succ n => exact .cons first after without (ih n)

theorem StoresWithin.drop (h : StoresWithin A cs) (n : Nat) : StoresWithin A (cs.drop n) := by
  induction h generalizing n with
  | nil A =>
    rw [List.drop_nil]
    exact .nil A
  | cons first after without rest ih =>
    cases n with
    | zero => exact .cons first after without rest
    | succ n => exact (ih n).mono without

/-- Every byte outside the addresses reads as before. -/
theorem StoresWithin.read_eq (h : StoresWithin A cs) (s : State) {k : Nat} (hk : ∀ a ∈ A s, k ≠ a.toNat) :
    (s.runCycles cs).mem.read k = s.mem.read k := by
  induction h generalizing s with
  | nil => rfl
  | cons first after _ _ ih =>
    rw [State.runCycles, ih _ fun a ha => hk a (after s ha)]
    exact first s k hk

/-- So it does after as many of the cycles as the gate lets through. -/
theorem State.pace_read {s t : State} {i : Instr} (h : StoresWithin A cs) (ht : s.pace i cs = .next t) {k : Nat}
    (hk : ∀ a ∈ A s, k ≠ a.toNat) : t.mem.read k = s.mem.read k := by
  obtain ⟨n, g, f, -, rfl, -⟩ := State.pace_next ht
  exact ((h.drop s.passed).take n).read_eq s hk

/-- A cycle that keeps what the addresses are computed from, and the memory. -/
theorem StoresWithin.quiet {c : Cycle} (hmem : ∀ s, (c s).mem = s.mem) (hA : ∀ s, A (c s) = A s) (h : StoresWithin A cs) :
    StoresWithin A (c :: cs) :=
  .cons (fun s k _ => by rw [hmem]) (fun s => by rw [hA s]; exact List.Subset.refl _) (fun _ => List.Subset.refl _) h

end

/-! ### Stores at the effective address -/

/-- The address cycles keep the effective address and the memory. -/
theorem storesWithin_address (m : MemOperand) {cs : List Cycle} (h : StoresWithin (fun s => [s.ea m]) cs) :
    StoresWithin (fun s => [s.ea m]) (addressCycles m ++ cs) := by
  have fetch : ∀ {ds}, StoresWithin (fun s => [s.ea m]) ds → StoresWithin (fun s => [s.ea m]) (State.fetchByte :: ds) :=
    .quiet (fun _ => rfl) fun s => by rw [State.fetchByte_eq, State.ea_advance]
  have read : ∀ {ds}, StoresWithin (fun s => [s.ea m]) ds → StoresWithin (fun s => [s.ea m]) (State.readOnly :: ds) :=
    .quiet (fun _ => rfl) fun _ => rfl
  cases m with
  | zp | zpx | zpy => exact fetch (fetch h)
  | abs | absx | absy => exact fetch (fetch (fetch h))
  | izx | izy => exact fetch (fetch (read (read h)))

/-- A last cycle that stores at the effective address. -/
theorem storesWithin_memWrite (m : MemOperand) (value : State → Byte) :
    StoresWithin (fun s => [s.ea m]) [fun s => s.memWrite (s.ea m) (value s)] :=
  .cons (fun _ _ hk => Memory.read_write_other _ _ (hk _ List.mem_cons_self)) (fun _ => List.nil_subset _)
    (fun _ => List.nil_subset _) (.nil fun _ => [])

theorem storesWithin_storeCycles (m : MemOperand) (value : State → Byte) :
    StoresWithin (fun s => [s.ea m]) (storeCycles m value) := storesWithin_address m (storesWithin_memWrite m value)

theorem storesWithin_modifyCycles (m : MemOperand) (p : Byte) (f : Byte → Byte → Byte × Byte) :
    StoresWithin (fun s => [s.ea m]) (modifyCycles m p f) :=
  storesWithin_address m (.quiet (fun _ => rfl) (fun s => by cases m <;> rfl) (storesWithin_memWrite m _))

theorem storesWithin_shiftCycles (m : MemOperand) (p : Byte) (f : Byte → Byte → Byte × Byte) :
    StoresWithin (fun s => [s.ea m]) (shiftCycles (.mem m) p f) := storesWithin_modifyCycles m p f

/-! ### Pushes -/

/-- The addresses of `n` pushes from the offset `k` down. -/
def slots : Nat → Byte → List Addr
  | 0, _ => []
  | n + 1, k => stackAddr k :: slots n (k - 1)

theorem slots_subset_succ (n : Nat) (k : Byte) : slots n k ⊆ slots (n + 1) k := by
  induction n generalizing k with
  | zero => exact List.nil_subset _
  | succ n ih => exact List.cons_subset_cons _ (ih (k - 1))

/-- A cycle that pushes a byte takes the first of the slots, and leaves the others to the rest. -/
theorem storesWithin_push {n : Nat} {c : Cycle} {cs : List Cycle}
    (hc : ∀ s, ∃ v, (c s).mem = s.mem.write (stackAddr s.sp).toNat v ∧ (c s).sp = s.sp - 1)
    (h : StoresWithin (fun s => slots n s.sp) cs) : StoresWithin (fun s => slots (n + 1) s.sp) (c :: cs) := by
  refine .cons (fun s k hk => ?_) (fun s => ?_) (fun s => slots_subset_succ n s.sp) h
  · obtain ⟨v, hmem, -⟩ := hc s
    rw [hmem]
    exact Memory.read_write_other _ _ (hk _ List.mem_cons_self)
  · obtain ⟨v, -, hsp⟩ := hc s
    rw [hsp]
    exact List.subset_cons_self _ _

/-- A push instruction stores at S. -/
theorem storesWithin_pushCycles (value : State → Byte) : StoresWithin (fun s => slots 1 s.sp) (pushCycles value) :=
  .quiet (fun _ => rfl) (fun _ => rfl) (storesWithin_push (fun _ => ⟨_, rfl, rfl⟩) (.nil _))

/-- A trap's three pushes. -/
theorem storesWithin_enterTrap (ret : Addr) : StoresWithin (fun s => slots 3 s.sp) (enterTrap ret) :=
  .quiet (fun _ => rfl) (fun _ => rfl) (storesWithin_push (fun _ => ⟨_, rfl, rfl⟩) (storesWithin_push (fun _ => ⟨_, rfl, rfl⟩)
    (storesWithin_push (fun _ => ⟨_, rfl, rfl⟩) (.quiet (fun _ => rfl) (fun _ => rfl) (.quiet (fun _ => rfl) (fun _ => rfl)
      (.nil _))))))

/-! ### The statements -/

/-- An instruction that stores does so within its addresses. -/
theorem exec_storesWithin {i : Instr} (hi : Stores i) : ∃ cycles : Byte → Addr → List Cycle,
    (∀ s, exec i s = s.pace i (cycles s.foundP s.opAddr)) ∧ ∀ p r, StoresWithin i.storesAt (cycles p r) := by
  obtain ⟨u, hu⟩ := hi
  cases i with
  | sta m | stx m | sty m => exact ⟨fun _ _ => storeCycles m _, fun _ => rfl, fun _ _ => storesWithin_storeCycles m _⟩
  | inc m | dec m => exact ⟨fun p _ => modifyCycles m p _, fun _ => rfl, fun p _ => storesWithin_modifyCycles m p _⟩
  | asl o | lsr o | rol o | ror o =>
    cases o with
    | acc => exact absurd rfl hu
    | mem m => exact ⟨fun p _ => shiftCycles (.mem m) p _, fun _ => rfl, fun p _ => storesWithin_shiftCycles m p _⟩
  | pha | php => exact ⟨fun _ _ => pushCycles _, fun _ => rfl, fun _ _ => storesWithin_pushCycles _⟩
  | jsr w =>
    exact ⟨fun _ _ => _, fun _ => rfl, fun _ _ => .quiet (fun _ => rfl) (fun _ => rfl) (.quiet (fun _ => rfl) (fun _ => rfl)
      (.quiet (fun _ => rfl) (fun _ => rfl) (storesWithin_push (n := 1) (fun _ => ⟨_, rfl, rfl⟩)
        (storesWithin_push (n := 0) (fun _ => ⟨_, rfl, rfl⟩) (.nil _)))))⟩
  | brk => exact ⟨fun _ r => enterTrap (r + 2), fun _ => rfl, fun _ r => storesWithin_enterTrap (r + 2)⟩
  | _ => exact absurd rfl hu

/-- Settles O35: the gated cycles of an instruction store within its addresses, as far as the gate lets them through. -/
theorem onlyTheStoredBytesChange : Obligations.OnlyTheStoredBytesChange := by
  intro i s t k h hk
  by_cases hi : Stores i
  · obtain ⟨cycles, he, hstores⟩ := exec_storesWithin hi
    exact State.pace_read (hstores _ _) ((he s).symm.trans h) hk
  · rw [(exec_leaves h).mem hi]

/-- A stack slot lies in page 1 (20_memory.md R69). -/
theorem stackAddr_page1 (v : Byte) : 0x100 ≤ (stackAddr v).toNat ∧ (stackAddr v).toNat ≤ 0x1FF := by
  have := v.isLt
  rw [stackAddr_toNat]
  omega

theorem slots_page1 {n : Nat} {k : Byte} {a : Addr} (h : a ∈ slots n k) : 0x100 ≤ a.toNat ∧ a.toNat ≤ 0x1FF := by
  induction n generalizing k with
  | zero => exact absurd h List.not_mem_nil
  | succ n ih =>
    obtain rfl | h := List.mem_cons.1 h
    · exact stackAddr_page1 k
    · exact ih h

/-- An instruction that completes from its beginning is one whose cycles the gate passes. -/
theorem exec_complete {i : Instr} {s t : State} (hs : s.inFlight = none) (h : exec i s = .next t) (ht : t.inFlight = none) :
    ∃ g, s.passes i.cycles g := by
  obtain ⟨cycles, he, hl, -⟩ := exec_pace i
  have hg := State.pace_complete hs ((he s).symm.trans h) ht
  rwa [hl] at hg

/-- A push at a lower offset leaves the bytes at S alone. -/
theorem Memory.read_write_below (m : Memory) {k j : Byte} (v : Byte) (hj : j ≠ k) :
    (m.write (0x100 + j.toNat) v).read (0x100 + k.toNat) = m.read (0x100 + k.toNat) :=
  Memory.read_write_other m v fun h => hj (BitVec.eq_of_toNat_eq (Nat.add_left_cancel h).symm)

theorem byte_sub_one_ne (b : Byte) : b - 1 ≠ b := by bv_omega

theorem byte_sub_two_ne (b : Byte) : b - 2 ≠ b := by bv_omega

theorem byte_sub_two_ne_sub_one (b : Byte) : b - 2 ≠ b - 1 := by bv_omega

/-- Settles O36: the slots lie in page 1; and each of the four pushes the byte first at the S it finds, where its later pushes,
at lower offsets, do not reach. -/
theorem pushesStayInPageOne : Obligations.PushesStayInPageOne := by
  intro i s t first h hi
  have hpage : (∃ n, i.storesAt s = slots n s.sp) → ∀ k : Nat, (k < 0x0100 ∨ 0x01FF < k) → t.mem.read k = s.mem.read k := by
    rintro ⟨n, hn⟩ k hk
    refine onlyTheStoredBytesChange i s t k h fun a ha => ?_
    rw [hn] at ha
    have := slots_page1 ha
    omega
  rw [stackAddr_toNat]
  simp only [List.mem_cons, List.not_mem_nil, or_false, Prod.mk.injEq] at hi
  obtain (⟨rfl, rfl⟩ | ⟨rfl, rfl⟩ | ⟨rfl, rfl⟩) | ⟨w, rfl, rfl⟩ := hi
  · refine ⟨hpage ⟨1, rfl⟩, fun hs ht => ?_⟩
    obtain ⟨g, hg⟩ := exec_complete hs h ht
    obtain rfl := Host.Outcome.next.inj ((exec_pha hg).symm.trans h)
    exact Memory.read_write_same _ _ _
  · refine ⟨hpage ⟨1, rfl⟩, fun hs ht => ?_⟩
    obtain ⟨g, hg⟩ := exec_complete hs h ht
    obtain rfl := Host.Outcome.next.inj ((exec_php hg).symm.trans h)
    exact Memory.read_write_same _ _ _
  · refine ⟨hpage ⟨3, rfl⟩, fun hs ht => ?_⟩
    obtain ⟨g, hg⟩ := exec_complete hs h ht
    obtain rfl := Host.Outcome.next.inj ((exec_brk hg).symm.trans h)
    simp only [Memory.read_write_below _ _ (byte_sub_two_ne s.sp), Memory.read_write_below _ _ (byte_sub_one_ne s.sp),
      Memory.read_write_same]
  · refine ⟨hpage ⟨2, rfl⟩, fun hs ht => ?_⟩
    obtain ⟨g, hg⟩ := exec_complete hs h ht
    obtain rfl := Host.Outcome.next.inj ((exec_jsr hg).symm.trans h)
    simp only [Memory.read_write_below _ _ (byte_sub_one_ne s.sp), Memory.read_write_same]

end Sys2Proof.Machine
end

section
/-! The round trips over the stack (20_memory.md R67, R68; 44_branch_control.md R249 to R252): a return instruction finds the bytes
that were pushed, whatever state it starts in, if S and those bytes are as they were left. -/

namespace Sys2Proof.Machine

/-- Settles O22: the pull raises S to where the push wrote. -/
theorem plaAfterPhaRestoresAAndS : Obligations.PlaAfterPhaRestoresAAndS := by
  intro s t u v hs hpha ht hu hsp hbyte hpla hv
  obtain ⟨g, hg⟩ := exec_complete hs hpha ht
  obtain ⟨g', hg'⟩ := exec_complete hu hpla hv
  obtain rfl := Host.Outcome.next.inj ((exec_pha hg).symm.trans hpha)
  obtain rfl := Host.Outcome.next.inj ((exec_pla hg').symm.trans hpla)
  have hraised : u.sp + 1 = s.sp := by rw [hsp, BitVec.sub_add_cancel]
  rw [stackAddr_toNat, Memory.read_write_same] at hbyte
  exact ⟨by rw [hraised, hbyte], hraised⟩

/-- Settles O26: RTI's three pulls find P and the two halves of `op_addr + 2` where BRK's three pushes put them. -/
theorem rtiReturnsFromBrk : Obligations.RtiReturnsFromBrk := by
  intro s t u v hs hbrk ht hu hsp hbytes hrti hv
  obtain ⟨g, hg⟩ := exec_complete hs hbrk ht
  obtain ⟨g', hg'⟩ := exec_complete hu hrti hv
  obtain rfl := Host.Outcome.next.inj ((exec_brk hg).symm.trans hbrk)
  obtain rfl := Host.Outcome.next.inj ((exec_rti hg').symm.trans hrti)
  have h1 : u.sp + 1 = s.sp - 2 := by rw [hsp]; bv_omega
  have h2 : u.sp + 2 = s.sp - 1 := by rw [hsp]; bv_omega
  have h3 : u.sp + 3 = s.sp := by rw [hsp]; bv_omega
  simp only [List.forall_mem_cons, stackAddr_toNat] at hbytes
  obtain ⟨hhigh, hlow, hp, -⟩ := hbytes
  simp only [Memory.read_write_below _ _ (byte_sub_two_ne s.sp), Memory.read_write_below _ _ (byte_sub_one_ne s.sp),
    Memory.read_write_below _ _ (byte_sub_two_ne_sub_one s.sp), Memory.read_write_same] at hhigh hlow hp
  simp only [h1, h2, h3, hhigh, hlow, hp, word_hiByte_loByte, getFlag_putFlag]
  simp

/-- Settles O29: RTS's two pulls find the two halves of `op_addr + 2` where JSR's two pushes put them, and goes on one past it. -/
theorem rtsReturnsFromJsr : Obligations.RtsReturnsFromJsr := by
  intro w s t u v hs hjsr ht hu hsp hbytes hrts hv
  obtain ⟨g, hg⟩ := exec_complete hs hjsr ht
  obtain ⟨g', hg'⟩ := exec_complete hu hrts hv
  obtain rfl := Host.Outcome.next.inj ((exec_jsr hg).symm.trans hjsr)
  obtain rfl := Host.Outcome.next.inj ((exec_rts hg').symm.trans hrts)
  have h1 : u.sp + 1 = s.sp - 1 := by rw [hsp]; bv_omega
  have h2 : u.sp + 2 = s.sp := by rw [hsp]; bv_omega
  simp only [List.forall_mem_cons, stackAddr_toNat] at hbytes
  obtain ⟨hhigh, hlow, -⟩ := hbytes
  simp only [Memory.read_write_below _ _ (byte_sub_one_ne s.sp), Memory.read_write_same] at hhigh hlow
  simp only [h1, h2, hhigh, hlow, word_hiByte_loByte]
  exact ⟨BitVec.add_assoc s.pc 2 1, trivial⟩

end Sys2Proof.Machine
end

section
/-! The addressing modes (30_encoding.md R102 to R113) and the memory's words (20_memory.md R61 to R64) in numbers. -/

namespace Sys2Proof.Machine

/-! ### Bytes and addresses as numbers -/

theorem zext16_eq (b : Byte) : zext16 b = BitVec.ofNat 16 b.toNat := by
  apply BitVec.eq_of_toNat_eq
  simp [zext16]

theorem zext16_toNat (b : Byte) : (zext16 b).toNat = b.toNat := by
  have := b.isLt
  rw [zext16, BitVec.toNat_setWidth]
  omega

theorem addr_add_zext16 (w : Addr) (b : Byte) : w + zext16 b = BitVec.ofNat 16 ((w.toNat + b.toNat) % 65536) := by
  apply BitVec.eq_of_toNat_eq
  rw [BitVec.toNat_add, zext16_toNat, BitVec.toNat_ofNat, Nat.mod_mod]

/-- A zero-page index wraps modulo 256 (R104, R105). -/
theorem zext16_add (b c : Byte) : zext16 (b + c) = BitVec.ofNat 16 ((b.toNat + c.toNat) % 256) := by
  rw [zext16_eq, BitVec.toNat_add]

theorem byte_add_one_toNat (b : Byte) : (b + 1).toNat = (b.toNat + 1) % 256 := BitVec.toNat_add b 1

/-- The zero-page pointer's bytes as numbered bytes of memory (R64). -/
theorem Memory.wordAtZP_eq (m : Memory) (z : Byte) :
    m.wordAtZP z = word (m.read ((z.toNat + 1) % 256)) (m.read z.toNat) := by
  rw [Memory.wordAtZP, zext16_toNat, zext16_toNat, byte_add_one_toNat]

/-- The signed offset as a number. -/
theorem sext16_toInt (b : Byte) : (sext16 b).toInt = b.toInt := BitVec.toInt_signExtend_of_le (by decide)

/-! ### The statements -/

/-- Settles O5: each mode's address as a number; the resolver's cycles advance PC and take as many as it reads bytes. -/
theorem memoryModesGiveTheAddress : Obligations.MemoryModesGiveTheAddress := by
  refine fun s m => ⟨?_, State.run_resolverCycles s m, resolverCycles_length m⟩
  cases m with
  | zp b => exact zext16_eq b
  | zpx b => exact zext16_add b s.x
  | zpy b => exact zext16_add b s.y
  | abs w => rfl
  | absx w => exact addr_add_zext16 w s.x
  | absy w => exact addr_add_zext16 w s.y
  | izx b =>
    simp only [State.ea, Memory.wordAtZP_eq, BitVec.toNat_add, Nat.mod_add_mod]
  | izy b =>
    simp only [State.ea, Memory.wordAtZP_eq]
    exact addr_add_zext16 _ s.y

/-- Settles O6: the two fetches advance PC by 2, and a taken branch adds the offset's signed value. -/
theorem relativeModeCountsFromTheNextInstruction : Obligations.RelativeModeCountsFromTheNextInstruction := by
  intro s b taken
  refine ⟨if taken then s.pc + 2 + sext16 b else s.pc + 2, ?_, rfl, ?_⟩
  · rw [State.run_branchCycles, addr_add_one_add_one]
    cases taken <;> rfl
  · have hoffset := sext16_toInt b
    rw [BitVec.toInt_eq_toNat_cond] at hoffset
    have hpc : (s.pc + 2).toNat = (s.pc.toNat + 2) % 65536 := BitVec.toNat_add s.pc 2
    cases taken with
    | true =>
      have htarget : (s.pc + 2 + sext16 b).toNat = ((s.pc + 2).toNat + (sext16 b).toNat) % 65536 := BitVec.toNat_add _ _
      simp only [if_true, htarget, hpc]
      split at hoffset <;> omega
    | false =>
      simp only [Bool.false_eq_true, if_false, hpc]
      omega

/-- Settles O45: the laws of the memory, an address being equal to another exactly when its number is. -/
theorem memWriteThenMemRead : Obligations.MemWriteThenMemRead := by
  intro s a b v
  rw [State.memRead, State.memWrite_mem, Memory.read_write, State.memRead]
  exact if_congr BitVec.toNat_inj rfl rfl

/-- Settles O47: a word is 256 times its high byte and its low byte, read at the next address. -/
theorem wordReadsAreLittleEndian : Obligations.WordReadsAreLittleEndian := by
  intro s a z
  have hnext : (a + 1).toNat = (a.toNat + 1) % 65536 := BitVec.toNat_add a 1
  rw [Memory.wordAt, word_toNat, hnext, Memory.wordAtZP_eq, word_toNat]
  exact ⟨rfl, rfl⟩

/-- Settles O48: bit 7 of a byte says whether it is at least 128. -/
theorem flagHelpersWriteAndCompare : Obligations.FlagHelpersWriteAndCompare := by
  refine ⟨flagsBecome_setZN, fun old new => ?_⟩
  have hbit : ∀ b : Byte, b.getLsbD 7 = true ↔ 128 ≤ b.toNat := fun b => by
    rw [← BitVec.msb_eq_getLsbD_last (x := b), BitVec.msb_eq_decide]
    simp
  rw [checkForOverflow, bne_iff_ne, ne_eq, Bool.eq_iff_iff, hbit, hbit]
  tauto

end Sys2Proof.Machine
end

section
/-! The host's port (60_exceptions.md R340 to R345, 10_state.md R43): what each operation answers. -/

namespace Sys2Proof.Machine

/-- A stopped engine takes every operation of the host. -/
theorem State.hostDo_stopped {s : State} (h : s.running = false) {op : HostOp} (hop : op ≠ .startCycle) :
    s.hostDo op = .next (op.effect s) := by
  simp [State.hostDo, h, hop]

/-- An operation that waits for the end of the run is refused during it. -/
theorem State.hostDo_refused {s : State} (h : s.running = true) {op : HostOp} (hop : op.whileRunning = false) :
    s.hostDo op = .refused .hostWhileRunning := by
  simp [State.hostDo, h, hop]

/-- An operation that is done while the engine runs is done at any time. -/
theorem State.hostDo_whileRunning (s : State) {op : HostOp} (hop : op.whileRunning = true) (hne : op ≠ .startCycle) :
    s.hostDo op = .next (op.effect s) := by
  simp [State.hostDo, hop, hne]

theorem word_and (a b c d : Byte) : word a b &&& word c d = word (a &&& c) (b &&& d) := BitVec.and_append

theorem word_or (a b c d : Byte) : word a b ||| word c d = word (a ||| c) (b ||| d) := BitVec.or_append

theorem ofNat_byte (v : Byte) : BitVec.ofNat 16 v.toNat = word 0#8 v := by
  apply BitVec.eq_of_toNat_eq
  have := v.isLt
  simp [word_toNat]
  omega

theorem ofNat_byte_shiftLeft (v : Byte) : BitVec.ofNat 16 v.toNat <<< 8 = word v 0#8 := by
  apply BitVec.eq_of_toNat_eq
  have := v.isLt
  simp [word_toNat, Nat.shiftLeft_eq]
  omega

/-- The high half of an address alone. -/
theorem addr_and_highMask (w : Addr) : w &&& 0xFF00 = word (hiByte w) 0#8 := by
  have h := word_and (hiByte w) (loByte w) (BitVec.allOnes 8) 0#8
  rw [word_hiByte_loByte, BitVec.and_allOnes, BitVec.and_zero] at h
  exact h

/-- The low half of an address alone. -/
theorem addr_and_lowMask (w : Addr) : w &&& 0x00FF = word 0#8 (loByte w) := by
  have h := word_and (hiByte w) (loByte w) 0#8 (BitVec.allOnes 8)
  rw [word_hiByte_loByte, BitVec.and_allOnes, BitVec.and_zero] at h
  exact h

/-- Writing PCL replaces the low half of PC (10_state.md R26). -/
theorem word_hiByte (w : Addr) (v : Byte) : word (hiByte w) v = (w &&& 0xFF00) ||| BitVec.ofNat 16 v.toNat := by
  rw [addr_and_highMask, ofNat_byte, word_or, BitVec.or_zero, BitVec.zero_or]

/-- Writing PCH replaces the high half of PC (10_state.md R27). -/
theorem word_loByte (w : Addr) (v : Byte) : word v (loByte w) = (BitVec.ofNat 16 v.toNat <<< 8) ||| (w &&& 0x00FF) := by
  rw [addr_and_lowMask, ofNat_byte_shiftLeft, word_or, BitVec.or_zero, BitVec.zero_or]

/-- The halves of an address as numbers (10_state.md R25). -/
theorem hiByte_toNat (w : Addr) : (hiByte w).toNat = w.toNat / 256 := by
  have := w.isLt
  rw [hiByte, BitVec.extractLsb'_toNat, Nat.shiftRight_eq_div_pow]
  omega

theorem loByte_toNat (w : Addr) : (loByte w).toNat = w.toNat % 256 := by
  rw [loByte, BitVec.extractLsb'_toNat, Nat.shiftRight_zero]

/-! ### The statements -/

/-- Settles O57: the reset of a stopped engine is done, and its vector is at 0xFFFC. -/
theorem resetLeavesTheStatedValues : Obligations.ResetLeavesTheStatedValues := by
  intro s hr
  rw [State.hostDo_stopped hr (by decide)]
  simp only [HostOp.effect, State.hostReset, hr]
  rfl

/-- Settles O58: of a stopped engine each operation is done, with the effect of its one accessor; of a running one it is
refused. -/
theorem accessorsWriteOnePlaceExactly : Obligations.AccessorsWriteOnePlaceExactly := by
  refine fun s v w => ⟨fun hr => ?_, fun hr op hop => State.hostDo_refused hr ?_⟩
  · have hdo : ∀ {op : HostOp}, op ≠ .startCycle → s.hostDo op = .next (op.effect s) := State.hostDo_stopped hr
    refine ⟨⟨_, hdo nofun, ?_, loByte_word _ _, hiByte_word _ _⟩, ⟨_, hdo nofun, ?_, hiByte_word _ _, loByte_word _ _⟩,
      ⟨_, hdo nofun, rfl, hiByte_toNat w, loByte_toNat w⟩, hdo nofun, hdo nofun, hdo nofun, hdo nofun, hdo nofun,
      ⟨_, hdo nofun, rfl, fun k => Memory.read_write _ _ _ _⟩⟩
    · exact congrArg s.setPC (word_hiByte s.pc v)
    · exact congrArg s.setPC (word_loByte s.pc v)
  · simp only [List.mem_cons, List.not_mem_nil, or_false] at hop
    obtain rfl | rfl | rfl | rfl | rfl | rfl | rfl | rfl := hop <;> rfl

/-- Settles O59: start, stop and join as they stand; what needs a stopped engine is refused during a run. -/
theorem hostStartsAndStops : Obligations.HostStartsAndStops := by
  refine fun s t => ⟨fun hr => State.hostDo_stopped hr nofun, fun b => State.hostDo_whileRunning s rfl nofun,
    State.hostDo_whileRunning s rfl nofun, ?_, rfl, rfl, fun a v hr op hop => State.hostDo_refused hr ?_⟩
  · rw [HostOp.returned, Bool.not_eq_true']
  · simp only [List.mem_cons, List.not_mem_nil, or_false] at hop
    obtain rfl | rfl | rfl | rfl | rfl | rfl | rfl | rfl | rfl | rfl | rfl := hop <;> rfl

end Sys2Proof.Machine
end
